-- ==== Sys2Proof/Word.lean ====
section
/-! DEFINITION. The word types of the SSPE (spec 00_scope.md R10, 10_state.md R50): bytes, 16-bit halves and 48-bit UIDs. -/

namespace Sys2Proof

/-- An 8-bit unsigned value (`u8` of R10): a byte on the bus, a host-port byte register. -/
abbrev Byte := BitVec 8

/-- A 16-bit unsigned value: `LEN`, `RLEN`, `ERR_INFO`, sub-device, parameter id, checksum. -/
abbrev Half := BitVec 16

/-- A UID as the unsigned 48-bit integer manufacturer x 2^32 + device (R50). -/
abbrev Uid := BitVec 48

end Sys2Proof
end

