-- ==== Sys2Proof/Config.lean ====
section
/-! DEFINITION. The configuration record `CFG` (spec 00_scope.md R8), the reference configuration `CFG_REF`, and the free values: what the transceiver returns, and a length that has no 16-bit number. -/

namespace Sys2Proof

/-- The names of register-table rows. The 19 named ones are those of the reference table (R41);
`other n` names a row of any other table. No rule reads a name (R45). -/
inductive RegName where
  | config | status | irqMask | irqFlags | dmxWindow | ascFrame | linkQuality | antenna | dmxSpec
  | dmxControl | extIrqMask | extIrqFlags | rfProtocol | version | rfPower | blockedChannels
  | bindingUid | linkingKey | oemInfo
  | other (n : Nat)
  deriving DecidableEq, Repr

/-- One row of `REGTAB`: `RegisterInfo` of R40. -/
structure RegisterInfo where
  address  : Byte
  length   : Nat
  readable : Bool
  writable : Bool
  name     : RegName
  deriving DecidableEq, Repr

/-- The numbers of the parameter ids (R112). The SSPE uses the first three. -/
structure ParameterIds where
  discUniqueBranch : Half
  discMute         : Half
  discUnMute       : Half
  supportedParameters : Half
  deviceInfo       : Half
  dmxStartAddress  : Half
  sensorDefinition : Half
  sensorValue      : Half
  deriving DecidableEq, Repr

/-- The numbers of the response types (R113). -/
structure ResponseTypes where
  ack         : Byte
  ackTimer    : Byte
  nackReason  : Byte
  ackOverflow : Byte
  deriving DecidableEq, Repr

/-- The numbers of the eleven named NACK reasons (R114). No rule reads them: a reason is passed on unchanged. -/
structure NackReasons where
  unknownPid              : Half
  formatError             : Half
  hardwareFault           : Half
  proxyReject             : Half
  writeProtect            : Half
  unsupportedCommandClass : Half
  dataOutOfRange          : Half
  bufferFull              : Half
  packetSizeUnsupported   : Half
  subDeviceOutOfRange     : Half
  proxyBufferFull         : Half
  deriving DecidableEq, Repr

/-- The host operation selectors (R8, last row; reference values R100). -/
structure Selectors where
  attach     : Byte
  detach     : Byte
  nop        : Byte
  rdreg      : Byte
  wrreg      : Byte
  rddmx      : Byte
  rdasc      : Byte
  rdrdm      : Byte
  wrdmx      : Byte
  wrrdm      : Byte
  fwblk1     : Byte
  fwblk2     : Byte
  rdmenc     : Byte
  rdmdec     : Byte
  poll       : Byte
  hret       : Byte
  discstart  : Byte
  disccancel : Byte
  deriving DecidableEq, Repr

/-- The status codes of the failures (R8, last row; reference values R115). `OK` is 0 by R14. -/
structure StatusCodes where
  accessDenied     : Byte
  lengthMismatch   : Byte
  frameLengthError : Byte
  checksumError    : Byte
  badStartCode     : Byte
  nackReason       : Byte
  timeout          : Byte
  deriving DecidableEq, Repr

/-- The handler ids (R8, last row; reference values R116): the numbers by which the HOST knows the handlers. -/
structure HandlerIds where
  rfLink       : BitVec 2
  dmxChanged   : BitVec 2
  spiRdm       : BitVec 2
  spiRadioDisc : BitVec 2
  deriving DecidableEq, Repr

/-- The codes of the response events (R8, last row; reference values R117). No event yet is 0 (R54). -/
structure EventCodes where
  avail     : BitVec 2
  collision : BitVec 2
  timeout   : BitVec 2
  deriving DecidableEq, Repr

/-- The configuration record `CFG` of R8, one field per row of its table, and one for each kind of number in its
last row (log 3). It is carried in `State` and no step writes it (log 1). -/
structure Cfg where
  regtab          : List RegisterInfo
  irqFlagsAddr    : Byte
  extIrqFlagsAddr : Byte
  bDmxChanged     : Nat
  bRfLink         : Nat
  bExtended       : Nat
  bSpiRdm         : Nat
  bSpiRadioDisc   : Nat
  lenRddmx  : Nat
  lenRdasc  : Nat
  lenRdrdm  : Nat
  lenWrdmx  : Nat
  lenWrrdm  : Nat
  lenFwblk1 : Nat
  lenFwblk2 : Nat
  bufCap    : Nat
  ownUid    : Uid
  portId    : Byte
  leafRetryMax : Nat
  stackCap  : Nat
  /-- `CONF_CAP`; `none` is "unbounded". -/
  confCap   : Option Nat
  /-- `ABND_CAP`; `none` is "unbounded". -/
  abndCap   : Option Nat
  /-- `DISC_TIMEOUT`: carried and unused (R302, U16); `none` is "no value". -/
  discTimeout : Option Nat
  /-- `CS_ID`, an opaque identifier that every transaction names (R21). -/
  csId      : Nat
  /-- `IRQ_ID`, an opaque identifier (R21). -/
  irqId     : Nat
  pids      : ParameterIds
  rts       : ResponseTypes
  nrs       : NackReasons
  selectors   : Selectors
  statusCodes : StatusCodes
  handlerIds  : HandlerIds
  eventCodes  : EventCodes
  deriving DecidableEq, Repr

/-- Size of `DBUF`: `LEN_WRRDM` or `LEN_RDRDM`, whichever is larger (R55). -/
def Cfg.dbufCap (c : Cfg) : Nat := max c.lenWrrdm c.lenRdrdm

/-- The 19 rows of the reference register table (R41; the spec takes them from general knowledge). -/
def Cfg.refRegtab : List RegisterInfo :=
  [ ⟨0x00, 1, true, true, .config⟩, ⟨0x01, 1, true, true, .status⟩, ⟨0x02, 1, true, true, .irqMask⟩,
    ⟨0x03, 1, true, true, .irqFlags⟩, ⟨0x04, 4, true, true, .dmxWindow⟩, ⟨0x05, 3, true, false, .ascFrame⟩,
    ⟨0x06, 1, true, false, .linkQuality⟩, ⟨0x07, 1, true, true, .antenna⟩, ⟨0x08, 8, true, true, .dmxSpec⟩,
    ⟨0x09, 1, true, true, .dmxControl⟩, ⟨0x0A, 4, true, true, .extIrqMask⟩, ⟨0x0B, 4, true, true, .extIrqFlags⟩,
    ⟨0x0C, 1, true, true, .rfProtocol⟩, ⟨0x10, 8, true, false, .version⟩, ⟨0x11, 1, true, true, .rfPower⟩,
    ⟨0x12, 11, true, true, .blockedChannels⟩, ⟨0x20, 6, true, true, .bindingUid⟩,
    ⟨0x21, 8, false, true, .linkingKey⟩, ⟨0x34, 4, true, true, .oemInfo⟩ ]

/-- `CFG_REF`, the reference configuration of R8 (column "reference value"; line identifiers: log 1). -/
def Cfg.ref : Cfg where
  regtab := Cfg.refRegtab
  irqFlagsAddr := 0x03
  extIrqFlagsAddr := 0x0B
  bDmxChanged := 2
  bRfLink := 3
  bExtended := 6
  bSpiRdm := 0
  bSpiRadioDisc := 1
  lenRddmx := 512
  lenRdasc := 128
  lenRdrdm := 256
  lenWrdmx := 512
  lenWrrdm := 256
  lenFwblk1 := 254
  lenFwblk2 := 18
  bufCap := 512
  ownUid := 0x4C5500000001
  portId := 0x01
  leafRetryMax := 3
  stackCap := 49
  confCap := none
  abndCap := none
  discTimeout := none
  csId := 0
  irqId := 1
  pids := ⟨0x0001, 0x0002, 0x0003, 0x0050, 0x0060, 0x00F0, 0x0200, 0x0201⟩
  rts := ⟨0x00, 0x01, 0x02, 0x03⟩
  nrs := ⟨0x0000, 0x0001, 0x0002, 0x0003, 0x0004, 0x0005, 0x0006, 0x0007, 0x0008, 0x0009, 0x000A⟩
  selectors := ⟨0x00, 0x01, 0x02, 0x03, 0x04, 0x05, 0x06, 0x07, 0x08, 0x09, 0x0A, 0x0B, 0x0C, 0x0D, 0x0E, 0x0F, 0x10, 0x11⟩
  statusCodes := ⟨1, 2, 3, 4, 5, 6, 7⟩
  handlerIds := ⟨0, 1, 2, 3⟩
  eventCodes := ⟨1, 2, 3⟩

/-- FREE VALUE (log 6): what the bus driver returns for the `n`-th transaction when the bytes `tx` are sent.
The transceiver is an oracle (R75): any bytes, and, for a driver that is not conformant, any number of
them (R67). No body, so no proof can lean on its value. -/
opaque Config.freeReply (n : Nat) (tx : List Byte) : List Byte

/-- FREE VALUE (log 2): what `RLEN`, a 16-bit register (R25), holds after an operation that delivers `n` bytes when
`n` is no 16-bit number. R8 bounds no length, and no rule says what is written then. No body. -/
opaque Config.freeRlen (n : Nat) : Half

end Sys2Proof
end

