-- ==== Sys2Proof/Syntax.lean ====
section
/-! DEFINITION. `Instr`: one constructor per row of spec/opcode_table.json (30_encoding.md R122). -/

namespace Sys2Proof

/-- The 31 rows of the opcode table. HOST operations take their operands from fixed host-port registers
(R28), so they have none here; the two register command bytes carry a 6-bit address (R91). -/
inductive Instr where
  -- BUS: the command bytes of R92
  | busRdreg (a : BitVec 6)
  | busWrreg (a : BitVec 6)
  | busRddmx
  | busRdasc
  | busRdrdm
  | busFwblk1
  | busFwblk2
  | busWrdmx
  | busWrrdm
  | busNop
  -- HOST: the operation selectors of R100
  | attach
  | detach
  | nop
  | rdreg
  | wrreg
  | rddmx
  | rdasc
  | rdrdm
  | wrdmx
  | wrrdm
  | fwblk1
  | fwblk2
  | rdmenc
  | rdmdec
  | poll
  | hret
  | discstart
  | disccancel
  -- RDM: the requests the DE emits (R237)
  | discUniqueBranch
  | discMute
  | discUnMute
  deriving DecidableEq, Repr

/-- The three formats of the opcode table (R122). -/
inductive Format where
  /-- 8-bit bus command byte. -/
  | bus
  /-- 8-bit host operation selector, written to `HOP`. -/
  | host
  /-- 24-bit commandClass x 65536 + parameterId. -/
  | rdm
  deriving DecidableEq, Repr

/-- An instruction word tagged with the space it is read in: the spaces overlap (a selector 0x00 is ATTACH,
a command byte 0x00 reads register 0), so a bare number does not name an instruction. -/
inductive CodeWord where
  | bus  (cmd : BitVec 8)
  | host (hop : BitVec 8)
  | rdm  (req : BitVec 24)
  deriving DecidableEq, Repr

end Sys2Proof
end

