-- ==== Sys2Proof/Decode.lean ====
section
/-! DEFINITION. The decoder and the encoder of the opcode table (spec 30_encoding.md R91, R92, R95, R96, R100, R102, R112, R122), and the selection of an operation by the numbers of a configuration (00_scope.md R8). -/

namespace Sys2Proof

/-- Why a word is no instruction. -/
inductive DecodeError where
  /-- One of the 120 unassigned command bytes (R96). -/
  | unassignedCommandByte (cmd : BitVec 8)
  /-- A selector 0x12 to 0xFF: it selects nothing (R102). -/
  | unassignedSelector (hop : BitVec 8)
  /-- A commandClass and parameterId that is none of the three requests the DE emits (R122). -/
  | noDiscoveryRequest (req : BitVec 24)
  deriving DecidableEq, Repr

/-- Decoding a command byte (R95): bit 7 clear is a register access, whose bit 6 is the direction and whose
bits 5..0 are the address; the eight other commands are matched exactly. -/
def decodeBus (c : BitVec 8) : Except DecodeError Instr :=
  if c.getLsbD 7 then
    if c = 0x81 then .ok .busRddmx
    else if c = 0x82 then .ok .busRdasc
    else if c = 0x83 then .ok .busRdrdm
    else if c = 0x8E then .ok .busFwblk1
    else if c = 0x8F then .ok .busFwblk2
    else if c = 0x91 then .ok .busWrdmx
    else if c = 0x92 then .ok .busWrrdm
    else if c = 0xFF then .ok .busNop
    else .error (.unassignedCommandByte c)
  else if c.getLsbD 6 then .ok (.busWrreg (c.extractLsb' 0 6))
  else .ok (.busRdreg (c.extractLsb' 0 6))

/-- Decoding an operation selector with the numbers of the opcode table, which are the reference values (R100, R122). -/
def decodeHost (h : BitVec 8) : Except DecodeError Instr :=
  if h = 0x00 then .ok .attach
  else if h = 0x01 then .ok .detach
  else if h = 0x02 then .ok .nop
  else if h = 0x03 then .ok .rdreg
  else if h = 0x04 then .ok .wrreg
  else if h = 0x05 then .ok .rddmx
  else if h = 0x06 then .ok .rdasc
  else if h = 0x07 then .ok .rdrdm
  else if h = 0x08 then .ok .wrdmx
  else if h = 0x09 then .ok .wrrdm
  else if h = 0x0A then .ok .fwblk1
  else if h = 0x0B then .ok .fwblk2
  else if h = 0x0C then .ok .rdmenc
  else if h = 0x0D then .ok .rdmdec
  else if h = 0x0E then .ok .poll
  else if h = 0x0F then .ok .hret
  else if h = 0x10 then .ok .discstart
  else if h = 0x11 then .ok .disccancel
  else .error (.unassignedSelector h)

/-- Decoding a discovery request from commandClass x 65536 + parameterId, with the table's own numbers, which
are the reference values of `PID_*` (R112, R122; log 14). -/
def decodeRdm (r : BitVec 24) : Except DecodeError Instr :=
  if r = 0x100001 then .ok .discUniqueBranch
  else if r = 0x100002 then .ok .discMute
  else if r = 0x100003 then .ok .discUnMute
  else .error (.noDiscoveryRequest r)

/-- The decoder, over the three spaces of R122. -/
def decode : CodeWord → Except DecodeError Instr
  | .bus c => decodeBus c
  | .host h => decodeHost h
  | .rdm r => decodeRdm r

/-- The encoder, from the tables of R92, R100 and R122. -/
def encode : Instr → CodeWord
  | .busRdreg a => .bus (0b00#2 ++ a)
  | .busWrreg a => .bus (0b01#2 ++ a)
  | .busRddmx => .bus 0x81
  | .busRdasc => .bus 0x82
  | .busRdrdm => .bus 0x83
  | .busFwblk1 => .bus 0x8E
  | .busFwblk2 => .bus 0x8F
  | .busWrdmx => .bus 0x91
  | .busWrrdm => .bus 0x92
  | .busNop => .bus 0xFF
  | .attach => .host 0x00
  | .detach => .host 0x01
  | .nop => .host 0x02
  | .rdreg => .host 0x03
  | .wrreg => .host 0x04
  | .rddmx => .host 0x05
  | .rdasc => .host 0x06
  | .rdrdm => .host 0x07
  | .wrdmx => .host 0x08
  | .wrrdm => .host 0x09
  | .fwblk1 => .host 0x0A
  | .fwblk2 => .host 0x0B
  | .rdmenc => .host 0x0C
  | .rdmdec => .host 0x0D
  | .poll => .host 0x0E
  | .hret => .host 0x0F
  | .discstart => .host 0x10
  | .disccancel => .host 0x11
  | .discUniqueBranch => .rdm 0x100001
  | .discMute => .rdm 0x100002
  | .discUnMute => .rdm 0x100003

/-- The eighteen host operations, in the order of R100. -/
def hostOperations : List Instr :=
  [.attach, .detach, .nop, .rdreg, .wrreg, .rddmx, .rdasc, .rdrdm, .wrdmx, .wrrdm, .fwblk1, .fwblk2, .rdmenc, .rdmdec,
   .poll, .hret, .discstart, .disccancel]

/-- The selector a configuration gives a host operation (R8); no other instruction has one. -/
def selectorOf (n : Selectors) : Instr → Option Byte
  | .attach => some n.attach
  | .detach => some n.detach
  | .nop => some n.nop
  | .rdreg => some n.rdreg
  | .wrreg => some n.wrreg
  | .rddmx => some n.rddmx
  | .rdasc => some n.rdasc
  | .rdrdm => some n.rdrdm
  | .wrdmx => some n.wrdmx
  | .wrrdm => some n.wrrdm
  | .fwblk1 => some n.fwblk1
  | .fwblk2 => some n.fwblk2
  | .rdmenc => some n.rdmenc
  | .rdmdec => some n.rdmdec
  | .poll => some n.poll
  | .hret => some n.hret
  | .discstart => some n.discstart
  | .disccancel => some n.disccancel
  | .busRdreg _ | .busWrreg _ | .busRddmx | .busRdasc | .busRdrdm => none
  | .busFwblk1 | .busFwblk2 | .busWrdmx | .busWrrdm | .busNop => none
  | .discUniqueBranch | .discMute | .discUnMute => none

/-- The operation that a value of `HOP` selects, if it selects one (R100, R102); of two with one number the first in
the order of R100 (log 30). -/
def selected (n : Selectors) (hop : Byte) : Option Instr :=
  hostOperations.find? fun i => selectorOf n i == some hop

/-- The instruction a bare word of the opcode table stands for: 24 bits are an RDM request; 8 bits are a host
selector if they select an operation and a bus command byte otherwise (the two spaces overlap below 0x12:
log 13). -/
def decodeTableWord (nbits w : Nat) : Option Instr :=
  if nbits = 24 then
    match decodeRdm (BitVec.ofNat 24 w) with
    | .ok i => some i
    | .error _ => none
  else if nbits = 8 then
    match decodeHost (BitVec.ofNat 8 w) with
    | .ok i => some i
    | .error _ =>
      match decodeBus (BitVec.ofNat 8 w) with
      | .ok i => some i
      | .error _ => none
  else none

end Sys2Proof
end

