-- ==== Sys2Proof/Machine/State.lean ====
section
/-! DEFINITION. The state of the SSPE as plain data (spec 10_state.md), the reasons a step can stop, and the state after reset (R58).
Memory.wf says the canonical form of a byte memory. -/

namespace Sys2Proof.Machine

/-! ### Byte memories -/

/-- A byte memory (`OBUF`, `RBUF`, `DBUF`): its bytes that differ from `Memory.unwritten`, by rising address. -/
abbrev Memory := List Host.Cell

/-- What a byte that no cell lists reads as: DESIGN CHOICE, R58 leaves it unspecified (log 5). -/
def Memory.unwritten : Byte := 0

/-- The canonical form: addresses strictly rising, and no cell that says what an unlisted byte reads as. -/
abbrev Memory.wf (m : Memory) : Prop :=
  m.Pairwise (fun c d => c.1 < d.1) ∧ ∀ c ∈ m, c.2 ≠ Memory.unwritten

/-! ### Named values -/

/-- The seven failure kinds (R280). -/
inductive Failure where
  | accessDenied | lengthMismatch | frameLengthError | checksumError | badStartCode | nackReason | timeout
  deriving DecidableEq, Repr

/-- The values of `STATUS` (R115): `OK` or a failure. -/
inductive Status where
  | ok
  | failed (e : Failure)
  deriving DecidableEq, Repr

/-- The states of the IRQ dispatcher, the register `iq` (R30, R171). -/
inductive Iq where
  | idle | rdflags | rdext | dispatch | call | wbext | wbflags
  deriving DecidableEq, Repr

/-- The states of the discovery engine, the register `ds` (R30, R231). -/
inductive Ds where
  | idle | pop | branchTx | branchWait | branchRx | muteTx | muteWait | muteRx | unmuteTx
  deriving DecidableEq, Repr

/-- The values of `MSG_ROLE` (R118). -/
inductive MsgRole where
  | none | request | response | unknown
  deriving DecidableEq, Repr

/-- The values of `RESP_KIND` (R118). -/
inductive RespKind where
  | none | ack | ackTimer | nackReason | ackOverflow | unknown
  deriving DecidableEq, Repr

/-- The values of `DISC_STATUS` (R54). -/
inductive DiscStatus where
  | none | running | done | cancelled
  deriving DecidableEq, Repr

/-- The response events (R117, R241). -/
inductive RespEvent where
  | avail | collision | timeout
  deriving DecidableEq, Repr

/-! ### The registers, unit by unit -/

/-- The operand registers of the host port (R24), written by the HOST only, and the standing request. -/
structure HostPort where
  /-- `HOP`, the selector of the requested operation. -/
  hop  : Byte
  /-- An operation is requested and is neither accepted nor dropped yet (R15, R300; log 9). -/
  offered : Bool
  /-- `A0`. -/
  a0   : Byte
  /-- `LEN`. -/
  len  : Half
  /-- `OBUF`. -/
  obuf : Memory
  deriving DecidableEq, Repr

/-- The result registers of the host port (R25). -/
structure Results where
  /-- `STATUS`. -/
  status  : Status
  /-- `ERR_INFO`. -/
  errInfo : Half
  /-- `RLEN`. -/
  rlen    : Half
  /-- `RBUF`. -/
  rbuf    : Memory
  /-- `FIRST_RX`. -/
  firstRx : Byte
  deriving DecidableEq, Repr

/-- The RDM field registers `F.*` (R26). -/
structure RdmFields where
  ml     : Byte
  dest   : Uid
  src    : Uid
  tn     : Byte
  portRt : Byte
  mc     : Byte
  subdev : Half
  cc     : Byte
  pid    : Half
  pdl    : Byte
  cksum  : Half
  deriving DecidableEq, Repr

/-- The outcome registers of RDMDEC (R27). -/
structure Decoded where
  /-- `MSG_ROLE`. -/
  role : MsgRole
  /-- `RESP_KIND`. -/
  kind : RespKind
  /-- `RESP_ARG`. -/
  arg  : Half
  deriving DecidableEq, Repr

/-- The IRQ dispatcher: `iq` (R30), `irq_pending` (R22) and the working registers (R33). `OBS_FLAGS` and
`OBS_EXT` are integers whose width, 8 times the register's length, the configuration sets. -/
structure Irqd where
  iq         : Iq
  irqPending : Bool
  obsFlags   : Nat
  obsExt     : Nat
  extRead    : Bool
  /-- `PEND[k]` is bit `k`. -/
  pend       : BitVec 4
  /-- `CONS[k]` is bit `k`. -/
  cons       : BitVec 4
  stale      : Bool
  hcall      : BitVec 2
  deriving DecidableEq, Repr

/-- A range of UIDs, both bounds included (R51). -/
structure UidRange where
  lo : Uid
  hi : Uid
  deriving DecidableEq, Repr

/-- The discovery engine: `ds` (R30), its working registers (R51, R54, R55) and its results (R52).
`CONF_N` and `ABND_N` are the lengths of the lists `conf` and `abnd`; an entry at or beyond its count is not kept
(log 27). -/
structure Disc where
  ds          : Ds
  /-- The slots `STK[0 .. STACK_CAP-1]`; the top of the stack is `STK[sp-1]`. -/
  stk         : List UidRange
  sp          : Nat
  curLo       : Uid
  curHi       : Uid
  retry       : Nat
  isoUid      : Uid
  conf        : List Uid
  abnd        : List Uid
  discOvf     : Bool
  unmuteAtEnd : Bool
  cancelReq   : Bool
  cancelling  : Bool
  discStatus  : DiscStatus
  /-- `LAST_EV`; `none` is 0, no event yet. -/
  lastEv      : Option RespEvent
  dbuf        : Memory
  deriving DecidableEq, Repr

/-! ### Outside the SSPE (R20, R57): the model's own fields -/

/-- One completed transaction of R61: the chip-select line it named, the bytes sent, the bytes received. -/
structure Xfer where
  cs : Nat
  tx : List Byte
  rx : List Byte
  deriving DecidableEq, Repr

/-- A responder of the reference environment (R76 (e)). -/
structure Responder where
  uid   : Uid
  muted : Bool
  deriving DecidableEq, Repr

/-- The reference environment `ENV_REF` of R76: registers, read windows, last payloads written, responders, and
the response event the last request provoked. -/
structure EnvRef where
  reg : List (Byte × List Byte)
  win : List (Byte × List Byte)
  out : List (Byte × List Byte)
  responders : List Responder
  ev  : Option RespEvent
  deriving DecidableEq, Repr

/-- What answers the SSPE's transactions (R75, R76; log 6). -/
inductive Transceiver where
  /-- The oracle of R75: `Config.freeReply`. -/
  | free
  /-- The replies of the next transactions in order, then the oracle. -/
  | script (replies : List (List Byte))
  /-- The reference environment. -/
  | ref (e : EnvRef)
  deriving DecidableEq, Repr

/-- A HOST write to an operand register (R24, R26). -/
inductive HostWrite where
  | a0 (v : Byte)
  | len (v : Half)
  /-- `OBUF[i], OBUF[i+1], ...` receive the bytes. -/
  | obuf (i : Nat) (bytes : List Byte)
  | fDest (v : Uid)
  | fSrc (v : Uid)
  | fTn (v : Byte)
  | fPortRt (v : Byte)
  | fMc (v : Byte)
  | fSubdev (v : Half)
  | fCc (v : Byte)
  | fPid (v : Half)
  deriving DecidableEq, Repr

/-- What happens next: a turn of the SSPE or an act of an agent outside it (R4, R121; log 7). -/
inductive Act where
  /-- The host port looks at the offered operation. -/
  | port
  /-- The running sequencer (IRQD or DE) takes its next step. -/
  | seq
  | write (w : HostWrite)
  /-- The HOST writes `HOP`, which requests the operation (R24). -/
  | offer (hop : Byte)
  /-- The HOST no longer offers a held operation (R300). -/
  | withdraw
  /-- `irq_assert` (R290). -/
  | irqAssert
  /-- A response event is delivered (R241). -/
  | event (e : RespEvent)
  /-- Power-on or external reset (R320). -/
  | reset
  /-- `ENV reg[a] = bytes` (R121). -/
  | envReg (a : Byte) (v : List Byte)
  /-- `ENV reg[a] |= bytes` (R121). -/
  | envRegOr (a : Byte) (v : List Byte)
  /-- `ENV win[c] = bytes` (R121). -/
  | envWin (c : Byte) (v : List Byte)
  deriving DecidableEq, Repr

/-- Everything outside the SSPE that a step reads or writes. -/
structure Env where
  /-- The transactions done, newest first (log 21). -/
  bus    : List Xfer
  trx    : Transceiver
  script : List Act
  deriving DecidableEq, Repr

/-! ### The state -/

/-- The state of the machine. -/
structure State where
  /-- `CFG` (R8): no step writes it (log 1). -/
  cfg      : Cfg
  /-- `attached` (R21). -/
  attached : Bool
  port     : HostPort
  res      : Results
  f        : RdmFields
  dec      : Decoded
  /-- `TN`, the transaction number counter (R53). -/
  tn       : Byte
  irqd     : Irqd
  de       : Disc
  env      : Env
  deriving DecidableEq, Repr

/-- Why the machine stops with a fault. Both are accesses to a place the spec says does not exist. -/
inductive Fault where
  /-- Raised by a split of a range when `sp + 2` exceeds `STACK_CAP`: there is no `STK[STACK_CAP]` (R51).
  R262 says no pass reaches it. Safe: the model stops (log 15). -/
  | stackOverflow
  /-- Raised by a HOST write of `OBUF` at or beyond `BUF_CAP` (R24). Safe: the model stops (log 16). -/
  | obufOutOfRange
  deriving DecidableEq, Repr

/-- Why the machine refuses to go on. -/
inductive Refusal where
  /-- Raised by `exec` for an instruction that has no meaning yet. Safe. -/
  | notModelled (mnemonic : String)
  /-- Raised by `step` when the configuration is not well-formed: "a model refuses any other" (R9). Safe. -/
  | illFormedConfig
  deriving DecidableEq, Repr

/-- What a step answers. -/
abbrev Result := Host.Outcome State Fault Refusal

/-! ### Reset -/

/-- The registers after reset (R58), for a configuration and an environment. A register that R58 leaves
unspecified is 0 (log 4, log 5). -/
def State.resetWith (c : Cfg) (e : Env) : State where
  cfg := c
  attached := false
  port := { hop := 0, offered := false, a0 := 0, len := 0, obuf := [] }
  res := { status := .ok, errInfo := 0, rlen := 0, rbuf := [], firstRx := 0 }
  f := { ml := 0, dest := 0, src := 0, tn := 0, portRt := 0, mc := 0, subdev := 0, cc := 0, pid := 0, pdl := 0, cksum := 0 }
  dec := { role := .none, kind := .none, arg := 0 }
  tn := 0
  irqd := { iq := .idle, irqPending := false, obsFlags := 0, obsExt := 0, extRead := false, pend := 0, cons := 0, stale := false, hcall := 0 }
  de := { ds := .idle, stk := List.replicate c.stackCap ⟨0, 0⟩, sp := 0, curLo := 0, curHi := 0, retry := 0, isoUid := 0, conf := [], abnd := [],
          discOvf := false, unmuteAtEnd := false, cancelReq := false, cancelling := false, discStatus := .none, lastEv := none, dbuf := [] }
  env := e

/-- The machine right after reset (R58, R320), with the reference configuration (log 1), a free transceiver
(log 6) and nothing scripted (log 7). -/
def State.reset : State :=
  State.resetWith Cfg.ref { bus := [], trx := .free, script := [] }

end Sys2Proof.Machine
end

