-- ==== Sys2Proof/Machine/Bytes.lean ====
section
/-! DEFINITION. Byte sequences and their integers (spec 00_scope.md R11), and the byte memories OBUF, RBUF and DBUF. -/

namespace Sys2Proof.Machine

/-- `be(s)` of R11: the integer a byte sequence holds, most significant byte first. -/
def be (s : List Byte) : Nat := s.foldl (fun acc b => 256 * acc + b.toNat) 0

/-- `BE_n(v)` of R11: the `n` bytes of `v`, most significant byte first. -/
def beBytes : Nat → Nat → List Byte
  | 0, _ => []
  | n + 1, v => BitVec.ofNat 8 (v / 256 ^ n) :: beBytes n v

/-- `s[i .. i+n-1]` of R11. -/
def slice (s : List Byte) (i n : Nat) : List Byte := (s.drop i).take n

/-- `s[i]`, 0 beyond the end; every use is guarded by a length check. -/
def byteAt (s : List Byte) (i : Nat) : Byte := s.getD i 0

/-- `[0xFF] x n`: padding is the no-op byte (R68). -/
def padding (n : Nat) : List Byte := List.replicate n 0xFF

/-- Exactly `n` bytes: `s` cut, or filled up with `b`. -/
def fitTo (n : Nat) (b : Byte) (s : List Byte) : List Byte := s.take n ++ List.replicate (n - s.length) b

/-- The byte a memory holds at an address. -/
def Memory.read : Memory → Nat → Byte
  | [], _ => Memory.unwritten
  | (b, w) :: r, a => if a = b then w else Memory.read r a

/-- The memory with one byte written, in canonical form. -/
def Memory.write : Memory → Nat → Byte → Memory
  | [], a, v => if v = Memory.unwritten then [] else [(a, v)]
  | (b, w) :: r, a, v =>
    if a < b then (if v = Memory.unwritten then (b, w) :: r else (a, v) :: (b, w) :: r)
    else if a = b then (if v = Memory.unwritten then r else (a, v) :: r)
    else (b, w) :: Memory.write r a v

/-- The bytes at `a, a+1, ..., a+n-1`. -/
def Memory.readBytes (m : Memory) (a n : Nat) : List Byte :=
  (List.range n).map fun i => m.read (a + i)

/-- The memory with a byte sequence written from address `a` on. -/
def Memory.writeBytes (m : Memory) (a : Nat) : List Byte → Memory
  | [] => m
  | b :: bs => Memory.write (Memory.writeBytes m (a + 1) bs) a b

end Sys2Proof.Machine
end

