-- ==== Sys2Proof/Machine/Uid.lean ====
section
/-! DEFINITION. UIDs and the range arithmetic of the Discovery Engine (spec 10_state.md R50, 44_discovery.md R247, R254). -/

namespace Sys2Proof.Machine

/-- `BCAST` of R50. -/
def bcast : Uid := 0xFFFFFFFFFFFF

/-- `reserved(u)` of R50: never the UID of a responder. -/
def reservedUid (u : Uid) : Bool := u == 0 || u == bcast

/-- `Mid(lo, hi)` of R247, in unsigned 48-bit arithmetic. -/
def mid (lo hi : Uid) : Uid := lo + ((hi - lo) >>> 1)

/-- `in_range(u, lo, hi)` of R254. -/
def inRange (u lo hi : Uid) : Bool := decide (lo ≤ u) && decide (u ≤ hi)

/-- The UID with a manufacturer id and a device id (R50). -/
def uidOf (manufacturer : BitVec 16) (device : BitVec 32) : Uid := manufacturer ++ device

end Sys2Proof.Machine
end

