-- ==== Sys2Proof/Machine/RdmFrame.lean ====
section
/-! DEFINITION. The RDM frame: encoder, parser, fields, role and kind, slice (spec 30_encoding.md R98 to R104, 43_rdm_codec.md R200, R205, R206, R212, R213, 44_discovery.md R244). -/

namespace Sys2Proof.Machine

/-- `startCode` and `subStartCode` of R98. -/
def startCode : Byte := 0xCC
def subStartCode : Byte := 0x01

/-- The 16-bit additive checksum of R104 over a byte sequence. -/
def checksum (bs : List Byte) : Half :=
  bs.foldl (fun acc b => acc + b.zeroExtend 16) 0

/-- The fields of a message that `Encode` takes (R200). -/
structure Message where
  dest   : Uid
  src    : Uid
  tn     : Byte
  prt    : Byte
  mc     : Byte
  sub    : Half
  cc     : Byte
  pid    : Half
  deriving DecidableEq, Repr

/-- The header and the parameter data, all that the checksum covers (R98, R200). -/
def frameBody (m : Message) (pd : List Byte) : List Byte :=
  [startCode, subStartCode, BitVec.ofNat 8 (24 + pd.length)]
    ++ beBytes 6 m.dest.toNat ++ beBytes 6 m.src.toNat ++ [m.tn, m.prt, m.mc]
    ++ beBytes 2 m.sub.toNat ++ [m.cc] ++ beBytes 2 m.pid.toNat ++ [BitVec.ofNat 8 pd.length] ++ pd

/-- `Encode` of R200; its domain is parameter data of at most 230 bytes. -/
def encodeFrame (m : Message) (pd : List Byte) : List Byte :=
  frameBody m pd ++ beBytes 2 (checksum (frameBody m pd)).toNat

/-- `FrameParse` of R205: `none` is `OK`. The checks are made in the order start codes, lengths, checksum. -/
def frameParse (f : List Byte) : Option Failure :=
  if f.length < 2 ∨ byteAt f 0 ≠ startCode ∨ byteAt f 1 ≠ subStartCode then some .badStartCode
  else if f.length < 26 ∨ 230 < (byteAt f 23).toNat ∨ (byteAt f 2).toNat ≠ 24 + (byteAt f 23).toNat
      ∨ f.length ≠ (byteAt f 2).toNat + 2 then some .lengthMismatch
  else if (checksum (f.take (byteAt f 2).toNat)).toNat ≠ be (slice f (byteAt f 2).toNat 2) then some .checksumError
  else none

/-- The message fields of a frame (R206). -/
def messageOf (f : List Byte) : Message where
  dest := BitVec.ofNat 48 (be (slice f 3 6))
  src := BitVec.ofNat 48 (be (slice f 9 6))
  tn := byteAt f 15
  prt := byteAt f 16
  mc := byteAt f 17
  sub := BitVec.ofNat 16 (be (slice f 18 2))
  cc := byteAt f 20
  pid := BitVec.ofNat 16 (be (slice f 21 2))

/-- `pd` of R206: the parameter data. -/
def frameData (f : List Byte) : List Byte := slice f 24 (byteAt f 23).toNat

/-- `Fields(f)` of R206, as the contents of the registers `F.*` (R210). -/
def frameFields (f : List Byte) : RdmFields where
  ml := byteAt f 2
  dest := (messageOf f).dest
  src := (messageOf f).src
  tn := (messageOf f).tn
  portRt := (messageOf f).prt
  mc := (messageOf f).mc
  subdev := (messageOf f).sub
  cc := (messageOf f).cc
  pid := (messageOf f).pid
  pdl := byteAt f 23
  cksum := BitVec.ofNat 16 (be (slice f (24 + (byteAt f 23).toNat) 2))

/-- `Role(cc)` of R212. -/
def roleOf (cc : Byte) : MsgRole :=
  if cc = 0x10 ∨ cc = 0x20 ∨ cc = 0x30 then .request
  else if cc = 0x11 ∨ cc = 0x21 ∨ cc = 0x31 then .response
  else .unknown

/-- `Kind(role, prt, pd)` of R213, with the response-type numbers of the configuration. -/
def kindOf (rt : ResponseTypes) (role : MsgRole) (prt : Byte) (pd : List Byte) : Except Failure (RespKind × Half) :=
  if role ≠ .response then .ok (.none, 0)
  else if prt = rt.ack then .ok (.ack, 0)
  else if prt = rt.ackOverflow then .ok (.ackOverflow, 0)
  else if prt = rt.ackTimer then
    if pd.length < 2 then .error .lengthMismatch else .ok (.ackTimer, BitVec.ofNat 16 (be (pd.take 2)))
  else if prt = rt.nackReason then
    if pd.length < 2 then .error .lengthMismatch else .ok (.nackReason, BitVec.ofNat 16 (be (pd.take 2)))
  else .ok (.unknown, 0)

/-- `Slice(d)` of R244: the frame at the start of a window, by its messageLength alone. -/
def sliceFrame (d : List Byte) : List Byte :=
  if d.length < 3 then d else d.take (min ((byteAt d 2).toNat + 2) d.length)

/-- A branch response isolates a UID (R245): the slice parses and its source is not reserved. -/
def isolatedUid (d : List Byte) : Option Uid :=
  let f := sliceFrame d
  if frameParse f = none ∧ reservedUid (messageOf f).src = false then some (messageOf f).src else none

/-- A frame at the start of a window of `n` bytes, the rest padding (R239, R120 `WRRDMF`). -/
def inWindow (n : Nat) (frame : List Byte) : List Byte := frame ++ padding (n - frame.length)

end Sys2Proof.Machine
end

