-- ==== Sys2Proof/Machine/RegTable.lean ====
section
/-! DEFINITION. The register-table lookup of the RAL (spec 40_register_access.md R130). -/

namespace Sys2Proof.Machine

/-- `Lookup(a)` of R130: the row of `REGTAB` whose address equals `a`, if there is one. -/
def lookup (c : Cfg) (a : Byte) : Option RegisterInfo :=
  c.regtab.find? (fun r => r.address == a)

/-- The length the table gives address `a`, 0 when it has no row (R120, the expansion of `RDREG a`). -/
def tableLength (c : Cfg) (a : Byte) : Nat :=
  match lookup c a with
  | some row => row.length
  | none => 0

/-- `L1`: the length of the row of `IRQ_FLAGS` (42_irq_dispatcher.md). -/
def lenIrqFlags (c : Cfg) : Nat := tableLength c c.irqFlagsAddr

/-- `L2`: the length of the row of `EXT_IRQ_FLAGS`. -/
def lenExtIrqFlags (c : Cfg) : Nat := tableLength c c.extIrqFlagsAddr

/-- The row of `a` allows reading and writing. -/
def readWrite (c : Cfg) (a : Byte) : Bool :=
  match lookup c a with
  | some row => row.readable && row.writable
  | none => false

end Sys2Proof.Machine
end

