-- ==== Sys2Proof/Machine/Environment.lean ====
section
/-! DEFINITION. What answers the SSPE's transactions: the free oracle, a script, or the reference environment `ENV_REF` (spec 20_memory.md R75, R76). -/

namespace Sys2Proof.Machine

/-- The byte sequence stored under a key, empty when there is none. -/
def findBytes (l : List (Byte × List Byte)) (k : Byte) : List Byte :=
  match l.find? (fun p => p.1 == k) with
  | some p => p.2
  | none => []

/-- The association list with the entry of one key replaced or added. -/
def setBytes : List (Byte × List Byte) → Byte → List Byte → List (Byte × List Byte)
  | [], k, v => [(k, v)]
  | (j, w) :: r, k, v => if j = k then (j, v) :: r else (j, w) :: setBytes r k v

/-- `ENV_REF` at the start of a test (R76): every register zero, every read window zero, no responders but those given. -/
def EnvRef.initial (c : Cfg) (responders : List Uid) : EnvRef where
  reg := c.regtab.map fun r => (r.address, List.replicate r.length 0)
  win := [(0x81, List.replicate c.lenRddmx 0), (0x82, List.replicate c.lenRdasc 0), (0x83, List.replicate c.lenRdrdm 0)]
  out := []
  responders := responders.map fun u => ⟨u, false⟩
  ev := none

/-- A register write in `ENV_REF`: the flag registers clear the bits written as 1, every other register stores (R44, R76 (a)).
A flag register whose stored bytes have another length keeps as many bytes as both sequences have (log 29). -/
def EnvRef.writeReg (c : Cfg) (e : EnvRef) (a : Byte) (v : List Byte) : EnvRef :=
  if a = c.irqFlagsAddr ∨ a = c.extIrqFlagsAddr then
    { e with reg := setBytes e.reg a (List.zipWith (fun old w => old &&& ~~~w) (findBytes e.reg a) v) }
  else { e with reg := setBytes e.reg a v }

/-- The frame a responder `u` answers a request with (R76): class 0x11, the request's parameter id and transaction number. -/
def responderFrame (req : Message) (u : Uid) (pd : List Byte) : List Byte :=
  encodeFrame { dest := req.src, src := u, tn := req.tn, prt := 0, mc := 0, sub := 0, cc := 0x11, pid := req.pid } pd

/-- The responders' reaction to a payload of the RDM write window (R76 (e)). An answer longer than the read window is
stored whole (log 29); of request kinds with one number the first in R76's order is taken (log 30). -/
def EnvRef.onRdmWrite (c : Cfg) (e : EnvRef) (payload : List Byte) : EnvRef :=
  let f := sliceFrame payload
  let m := messageOf f
  let pd := frameData f
  if frameParse f ≠ none ∨ m.cc ≠ 0x10 then e
  else if m.pid = c.pids.discUniqueBranch ∧ pd.length = 12 then
    let lo : Uid := BitVec.ofNat 48 (be (pd.take 6))
    let hi : Uid := BitVec.ofNat 48 (be (pd.drop 6))
    match e.responders.filter (fun r => !r.muted && inRange r.uid lo hi) with
    | [] => { e with ev := some .timeout }
    | [r] => { e with ev := some .avail, win := setBytes e.win 0x83 (inWindow c.lenRdrdm (responderFrame m r.uid [])) }
    | _ => { e with ev := some .collision }
  else if m.pid = c.pids.discMute then
    if e.responders.any (fun r => r.uid == m.dest) then
      { e with
        responders := e.responders.map (fun r => if r.uid = m.dest then { r with muted := true } else r)
        ev := some .avail
        win := setBytes e.win 0x83 (inWindow c.lenRdrdm (responderFrame m m.dest [0x00, 0x00])) }
    else { e with ev := some .timeout }
  else if m.pid = c.pids.discUnMute then
    { e with responders := e.responders.map (fun r => { r with muted := false }), ev := none }
  else e

/-- The reply of `ENV_REF` to a transaction and its next state (R76): the command byte is decoded by R95,
`rx[0]` is 0 and as many bytes come back as were sent. A command byte that is unassigned gets the oracle's reply
(log 22). Stored bytes of another length than the register or window are cut to the transaction, or filled up with 0
(log 29). -/
def EnvRef.reply (c : Cfg) (e : EnvRef) (n : Nat) (tx : List Byte) : List Byte × EnvRef :=
  let cmd := byteAt tx 0
  let data := tx.drop 1
  let window := (fitTo tx.length 0 (0 :: findBytes e.win cmd), e)
  let sent := { e with out := setBytes e.out cmd data }
  let nothing := List.replicate tx.length (0 : Byte)
  match decodeBus cmd with
  | .ok (.busRdreg a) => (fitTo tx.length 0 (0 :: findBytes e.reg (a.zeroExtend 8)), e)
  | .ok (.busWrreg a) => (nothing, e.writeReg c (a.zeroExtend 8) data)
  | .ok .busRddmx => window
  | .ok .busRdasc => window
  | .ok .busRdrdm => window
  | .ok .busWrrdm => (nothing, sent.onRdmWrite c data)
  | .ok .busWrdmx => (nothing, sent)
  | .ok .busFwblk1 => (nothing, sent)
  | .ok .busFwblk2 => (nothing, sent)
  | .ok .busNop => (nothing, e)
  | _ => (Config.freeReply n tx, e)

/-- What comes back in the `n`-th transaction when `tx` is sent, and what answers the next one (R61, R75). -/
def Transceiver.reply (c : Cfg) (t : Transceiver) (n : Nat) (tx : List Byte) : List Byte × Transceiver :=
  match t with
  | .free => (Config.freeReply n tx, .free)
  | .script [] => (Config.freeReply n tx, .script [])
  | .script (r :: rs) => (r, .script rs)
  | .ref e => ((e.reply c n tx).1, .ref (e.reply c n tx).2)

/-- The response event `ENV_REF` has ready for a waiting DE; other transceivers announce events by the script only. -/
def Transceiver.event : Transceiver → Option RespEvent
  | .ref e => e.ev
  | _ => none

/-- The event was delivered. -/
def Transceiver.clearEvent : Transceiver → Transceiver
  | .ref e => .ref { e with ev := none }
  | t => t

/-- An act of a program line `ENV ...` on `ENV_REF` (R121); another transceiver has no registers to set (log 22). -/
def Transceiver.edit (t : Transceiver) (g : EnvRef → EnvRef) : Transceiver :=
  match t with
  | .ref e => .ref (g e)
  | t => t

/-- `ENV reg[a] |= bytes` (R121). Of two sequences of different lengths as many bytes result as both have (log 29). -/
def EnvRef.orReg (e : EnvRef) (a : Byte) (v : List Byte) : EnvRef :=
  { e with reg := setBytes e.reg a (List.zipWith (fun old w => old ||| w) (findBytes e.reg a) v) }

end Sys2Proof.Machine
end

