-- ==== Sys2Proof/Machine/Ops.lean ====
section
/-! DEFINITION. The shared operations: completing and failing (00_scope.md R14, 60_exceptions.md R281), the bus primitive and the four transactions built on it (20_memory.md R61 to R66), the interrupt event (R290), HOST writes of operand registers (R24). -/

namespace Sys2Proof.Machine

/-! ### The end of an operation -/

/-- `complete OK` of R14: `STATUS` and `ERR_INFO` are 0 (R28). -/
def complete (s : State) : State :=
  { s with res := { s.res with status := .ok, errInfo := 0 } }

/-- `raise E(info)` of R14, the taking of a synchronous exception: `STATUS` receives the code and `ERR_INFO` the
extra word; nothing else is saved, no control is transferred and there is nothing to return from (R281). -/
def raise (e : Failure) (info : Half) (s : State) : State :=
  { s with res := { s.res with status := .failed e, errInfo := info } }

/-! ### The bus -/

/-- What the driver returns when `tx` is sent in state `s`. -/
def busReply (s : State) (tx : List Byte) : List Byte :=
  (s.env.trx.reply s.cfg s.env.bus.length tx).1

/-- `BusXfer(tx)` of R61 with the capture of `FIRST_RX` of R62: one transaction under the chip-select line of
`CS_ID`. The bytes received are `busReply s tx`. -/
def busXfer (tx : List Byte) (s : State) : State :=
  { s with
    env := { s.env with
      bus := { cs := s.cfg.csId, tx := tx, rx := busReply s tx } :: s.env.bus
      trx := (s.env.trx.reply s.cfg s.env.bus.length tx).2 }
    res := { s.res with firstRx := (busReply s tx).headD s.res.firstRx } }

/-- What a read transaction sends: the command byte, then `n` bytes of padding (R63, R65, R68). -/
def readTx (cmd : Byte) (n : Nat) : List Byte := cmd :: padding n

/-- The bytes a read transaction returns, `none` when the driver returned a wrong number of bytes (R63, R65, R67). -/
def readData (cmd : Byte) (n : Nat) (s : State) : Option (List Byte) :=
  if (busReply s (readTx cmd n)).length = n + 1 then some ((busReply s (readTx cmd n)).drop 1) else none

/-- The command byte of a register write (R64): bit 6 set. -/
def writeCommand (a : Byte) : Byte := 0x40 ||| a

/-- `MemRead(addr, n)` of R63: the data if the length is right, and the state after the transaction. -/
def memRead (a : Byte) (n : Nat) (s : State) : Option (List Byte) × State :=
  (readData a n s, busXfer (readTx a n) s)

/-- `MemWrite(addr, n, v)` of R64; `n` is the length of `v`. It cannot fail. -/
def memWrite (a : Byte) (v : List Byte) (s : State) : State :=
  busXfer (writeCommand a :: v) s

/-- `BulkRead(cmd, n)` of R65. -/
def bulkRead (cmd : Byte) (n : Nat) (s : State) : Option (List Byte) × State :=
  (readData cmd n s, busXfer (readTx cmd n) s)

/-- `BulkWrite(cmd, v)` of R66. It cannot fail. -/
def bulkWrite (cmd : Byte) (v : List Byte) (s : State) : State :=
  busXfer (cmd :: v) s

/-! ### The interrupt line and the HOST's writes -/

/-- `irq_assert` of R290. -/
def irqAssert (s : State) : State :=
  if s.attached then { s with irqd := { s.irqd with irqPending := true } } else s

/-- A HOST write of an operand register (R24, R26). `OBUF[i]` exists for `i < BUF_CAP` only (log 16).
The bytes of `OBUF` that are not written keep what an earlier write left there (log 28). -/
def hostWrite (w : HostWrite) (s : State) : Result :=
  match w with
  | .a0 v => .next { s with port := { s.port with a0 := v } }
  | .len v => .next { s with port := { s.port with len := v } }
  | .obuf i bytes =>
    if i + bytes.length ≤ s.cfg.bufCap then
      .next { s with port := { s.port with obuf := s.port.obuf.writeBytes i bytes } }
    else .fault .obufOutOfRange
  | .fDest v => .next { s with f := { s.f with dest := v } }
  | .fSrc v => .next { s with f := { s.f with src := v } }
  | .fTn v => .next { s with f := { s.f with tn := v } }
  | .fPortRt v => .next { s with f := { s.f with portRt := v } }
  | .fMc v => .next { s with f := { s.f with mc := v } }
  | .fSubdev v => .next { s with f := { s.f with subdev := v } }
  | .fCc v => .next { s with f := { s.f with cc := v } }
  | .fPid v => .next { s with f := { s.f with pid := v } }

end Sys2Proof.Machine
end

