-- ==== Sys2Proof/Machine/Acceptance.lean ====
section
/-! DEFINITION. The modes and the acceptance of operations (spec 10_state.md R23, 60_exceptions.md R300, R301). -/

namespace Sys2Proof.Machine

/-- The three modes (R301). -/
inductive Mode where
  | normal | dispatch | discovery
  deriving DecidableEq, Repr

/-- The mode, read off the sequencer state (R23). -/
def modeOf (s : State) : Mode :=
  if s.irqd.iq ≠ .idle then .dispatch else if s.de.ds ≠ .idle then .discovery else .normal

/-- The columns of the table of R300. -/
inductive PortColumn where
  | detached | normal | call | stepping | discovery
  deriving DecidableEq, Repr

/-- The rows of the table of R300. -/
inductive OpClass where
  | attach | detach | ordinary | poll | hret | discstart | disccancel
  deriving DecidableEq, Repr

/-- What becomes of an offered operation (R15, R300). -/
inductive Disposition where
  /-- It runs. -/
  | accept
  /-- It stays requested until the mode allows it. -/
  | held
  /-- It is dropped, changes nothing and writes no `STATUS`. -/
  | refused
  deriving DecidableEq, Repr

/-- The column of R300 that a state is in. -/
def portColumn (s : State) : PortColumn :=
  if !s.attached then .detached
  else if s.irqd.iq = .call then .call
  else if s.irqd.iq ≠ .idle then .stepping
  else if s.de.ds ≠ .idle then .discovery
  else .normal

/-- The table of R300. -/
def acceptance : OpClass → PortColumn → Disposition
  | .attach, .detached => .accept
  | .attach, .normal => .accept
  | .attach, .call => .refused
  | .attach, .stepping => .held
  | .attach, .discovery => .held
  | .detach, .detached => .refused
  | .detach, .normal => .accept
  | .detach, .call => .refused
  | .detach, .stepping => .held
  | .detach, .discovery => .held
  | .ordinary, .detached => .refused
  | .ordinary, .normal => .accept
  | .ordinary, .call => .accept
  | .ordinary, .stepping => .held
  | .ordinary, .discovery => .held
  | .poll, .detached => .refused
  | .poll, .normal => .accept
  | .poll, .call => .refused
  | .poll, .stepping => .held
  | .poll, .discovery => .held
  | .hret, .detached => .refused
  | .hret, .normal => .refused
  | .hret, .call => .accept
  | .hret, .stepping => .refused
  | .hret, .discovery => .refused
  | .discstart, .detached => .refused
  | .discstart, .normal => .accept
  | .discstart, .call => .refused
  | .discstart, .stepping => .held
  | .discstart, .discovery => .held
  | .disccancel, .detached => .refused
  | .disccancel, .normal => .accept
  | .disccancel, .call => .accept
  | .disccancel, .stepping => .held
  | .disccancel, .discovery => .accept

/-- The row of R300 that an instruction is in; the DE's own requests are offered by no HOST. -/
def opClass : Instr → Option OpClass
  | .attach => some .attach
  | .detach => some .detach
  | .poll => some .poll
  | .hret => some .hret
  | .discstart => some .discstart
  | .disccancel => some .disccancel
  | .nop | .rdreg | .wrreg => some .ordinary
  | .rddmx | .rdasc | .rdrdm | .wrdmx | .wrrdm | .fwblk1 | .fwblk2 => some .ordinary
  | .rdmenc | .rdmdec => some .ordinary
  | .busRdreg _ | .busWrreg _ | .busNop => some .ordinary
  | .busRddmx | .busRdasc | .busRdrdm | .busWrdmx | .busWrrdm | .busFwblk1 | .busFwblk2 => some .ordinary
  | .discUniqueBranch | .discMute | .discUnMute => none

/-- The standing request is taken off the port: the operation was accepted or dropped. -/
def dropOffer (s : State) : State := { s with port := { s.port with offered := false } }

/-- An offered operation of a class is accepted and runs, is held, or is dropped (R300). -/
def accepting (k : OpClass) (run : State → State) (s : State) : Result :=
  match acceptance k (portColumn s) with
  | .accept => .next (run (dropOffer s))
  | .held => .next s
  | .refused => .next (dropOffer s)

end Sys2Proof.Machine
end

