-- ==== Sys2Proof/Machine/Operands.lean ====
section
/-! DEFINITION. The operands and results of host operations (spec 10_state.md R24, R25, R28; 41_frame_codec.md R152). -/

namespace Sys2Proof.Machine

/-- `A0[0]`: the flag operand of RDMENC, HRET and DISCSTART (R24). -/
def a0Flag (s : State) : Bool := s.port.a0.getLsbD 0

/-- `OBUF[0 .. n-1]`. A byte the HOST did not write for this operation is the one it wrote there last (log 28). -/
def obufBytes (s : State) (n : Nat) : List Byte := s.port.obuf.readBytes 0 n

/-- What `RLEN` holds after `n` bytes are delivered (R25): `n`, or, when it is no 16-bit number, a free value (log 2). -/
def rlenOf (n : Nat) : Half := if n < 65536 then BitVec.ofNat 16 n else Config.freeRlen n

/-- The bytes `d` become the result: `RBUF[0 .. |d|-1]` and `RLEN` (R25); bytes of `RBUF` beyond are not written.
There is no `RBUF[BUF_CAP]`, so a byte of `d` at or beyond `BUF_CAP` is not kept (log 2). -/
def deliver (d : List Byte) (s : State) : State :=
  { s with res := { s.res with rbuf := s.res.rbuf.writeBytes 0 (d.take s.cfg.bufCap), rlen := rlenOf d.length } }

/-- Taking the next transaction number: `TN <- (TN + 1) mod 256` (R53, R238). -/
def advanceTn (s : State) : State := { s with tn := s.tn + 1 }

/-- The RDM message in the field registers (R26), as RDMENC encodes it (R201). -/
def fieldsMessage (f : RdmFields) : Message where
  dest := f.dest
  src := f.src
  tn := f.tn
  prt := f.portRt
  mc := f.mc
  sub := f.subdev
  cc := f.cc
  pid := f.pid

end Sys2Proof.Machine
end

