-- ==== Sys2Proof/Machine/Discovery.lean ====
section
/-! DEFINITION. The Discovery Engine: DISCSTART, DISCCANCEL, the three requests it emits and the other steps of a pass (spec 44_discovery.md R232 to R261). -/

namespace Sys2Proof.Machine

/-! ### Starting and cancelling -/

/-- The range that step 1 of the search puts on the stack (R232). -/
def wholeRange : UidRange := ⟨0x000000000000, 0xFFFFFFFFFFFF⟩

/-- The body of DISCSTART (R232). -/
def startDiscovery (s : State) : State :=
  complete { s with de :=
    { s.de with
      unmuteAtEnd := a0Flag s
      cancelReq := false
      cancelling := false
      discOvf := false
      conf := []
      abnd := []
      stk := s.de.stk.set 0 wholeRange
      sp := 1
      retry := 0
      lastEv := none
      discStatus := .running
      ds := .pop } }

/-- `CANCEL_REQ <- 1` when a pass is running (R233, R323). -/
def requestCancel (s : State) : State :=
  if s.de.ds ≠ .idle then { s with de := { s.de with cancelReq := true } } else s

/-- DISCSTART (R232). -/
def execDiscstart (s : State) : Result := accepting .discstart startDiscovery s

/-- DISCCANCEL (R233). -/
def execDisccancel (s : State) : Result := accepting .disccancel (fun t => complete (requestCancel t)) s

/-- `cancel`, the unwinding (R253): "a simple stack-clear", then the global un-mute. -/
def cancelPass (s : State) : State :=
  { s with de := { s.de with sp := 0, cancelling := true, ds := .unmuteTx } }

/-- `finish` (R252): a cancelled pass reports nothing. That it clears `DISC_OVF` too is R52's and D33's (log 26). -/
def finishPass (s : State) : State :=
  { s with de :=
    { s.de with
      conf := if s.de.cancelling then [] else s.de.conf
      abnd := if s.de.cancelling then [] else s.de.abnd
      discOvf := if s.de.cancelling then false else s.de.discOvf
      discStatus := if s.de.cancelling then .cancelled else .done
      sp := 0
      cancelling := false
      cancelReq := false
      ds := .idle } }

/-! ### Requests -/

/-- `Req(dest, pid, pd)` of R236. -/
def request (s : State) (dest : Uid) (pid : Half) (pd : List Byte) : List Byte :=
  encodeFrame { dest := dest, src := s.cfg.ownUid, tn := s.tn, prt := s.cfg.portId, mc := 0, sub := 0, cc := 0x10, pid := pid } pd

/-- The three requests of R237. -/
def branchRequest (s : State) : List Byte :=
  request s bcast s.cfg.pids.discUniqueBranch (beBytes 6 s.de.curLo.toNat ++ beBytes 6 s.de.curHi.toNat)
def muteRequest (s : State) : List Byte := request s s.de.isoUid s.cfg.pids.discMute []
def unmuteRequest (s : State) : List Byte := request s bcast s.cfg.pids.discUnMute []

/-- `DBUF` written from its start, as far as it goes (R55, R239, R243). In a well-formed configuration `d` fits. -/
def fillDbuf (d : List Byte) (s : State) : State :=
  { s with de := { s.de with dbuf := s.de.dbuf.writeBytes 0 (d.take s.cfg.dbufCap) } }

/-- `TN` advances (R238), then `Send(frame)` of R239: the frame in the padded RDM window. -/
def sendRequest (frame : List Byte) (s : State) : State :=
  bulkWrite 0x92 (inWindow s.cfg.lenWrrdm frame) (fillDbuf (inWindow s.cfg.lenWrrdm frame) (advanceTn s))

/-- `ds <- d`. -/
def setDs (d : Ds) (s : State) : State := { s with de := { s.de with ds := d } }

/-- A UID may still be stored in a list of a capacity (R260). -/
def hasRoom (cap : Option Nat) (n : Nat) : Bool :=
  match cap with
  | none => true
  | some c => n != c

/-- `record(u)` of R260. -/
def recordUid (u : Uid) (s : State) : State :=
  if u ∈ s.de.conf then s
  else if hasRoom s.cfg.confCap s.de.conf.length then { s with de := { s.de with conf := s.de.conf ++ [u] } }
  else { s with de := { s.de with discOvf := true } }

/-- `abandon(u)` of R261. -/
def abandonUid (u : Uid) (s : State) : State :=
  if u ∈ s.de.abnd then s
  else if hasRoom s.cfg.abndCap s.de.abnd.length then { s with de := { s.de with abnd := s.de.abnd ++ [u] } }
  else { s with de := { s.de with discOvf := true } }

/-- State `DS_BRANCH_TX` (R240). -/
def branchTx (s : State) : State :=
  if s.de.cancelReq then cancelPass s else setDs .branchWait (sendRequest (branchRequest s) s)

/-- State `DS_MUTE_TX` (R248). -/
def muteTx (s : State) : State :=
  if s.de.cancelReq then cancelPass s else setDs .muteWait (recordUid s.de.isoUid (sendRequest (muteRequest s) s))

/-- State `DS_UNMUTE_TX` (R251). -/
def unmuteTx (s : State) : State := finishPass (sendRequest (unmuteRequest s) s)

/-- RDM.DISC_UNIQUE_BRANCH (R240): the DE emits it in `DS_BRANCH_TX` and nowhere else (R231, log 12). -/
def execDiscUniqueBranch (s : State) : Result :=
  .next (if s.de.ds = .branchTx then branchTx s else s)

/-- RDM.DISC_MUTE (R248): emitted in `DS_MUTE_TX`. -/
def execDiscMute (s : State) : Result :=
  .next (if s.de.ds = .muteTx then muteTx s else s)

/-- RDM.DISC_UN_MUTE (R251): emitted in `DS_UNMUTE_TX`. -/
def execDiscUnMute (s : State) : Result :=
  .next (if s.de.ds = .unmuteTx then unmuteTx s else s)

/-! ### The other steps of a pass -/

/-- State `DS_POP` (R235). -/
def stepPop (s : State) : State :=
  if s.de.cancelReq then cancelPass s
  else if s.de.sp = 0 then (if s.de.unmuteAtEnd then setDs .unmuteTx s else finishPass s)
  else
    let r := s.de.stk.getD (s.de.sp - 1) ⟨0, 0⟩
    { s with de := { s.de with sp := s.de.sp - 1, curLo := r.lo, curHi := r.hi, retry := 0, ds := .branchTx } }

/-- The split of R246: the upper half is pushed first, the lower half lies on top. -/
def splitRange (s : State) : State :=
  let m := mid s.de.curLo s.de.curHi
  { s with de :=
    { s.de with
      stk := (s.de.stk.set s.de.sp ⟨m + 1, s.de.curHi⟩).set (s.de.sp + 1) ⟨s.de.curLo, m⟩
      sp := s.de.sp + 2
      ds := .pop } }

/-- `collision` of R246. The pushes need two free slots; R262 says a pass always has them (log 15). -/
def collision (s : State) : Result :=
  if s.de.curLo = s.de.curHi then
    if s.de.retry < s.cfg.leafRetryMax then
      .next { s with de := { s.de with retry := s.de.retry + 1, ds := .branchTx } }
    else .next (setDs .pop (abandonUid s.de.curLo s))
  else if s.de.sp + 2 ≤ s.cfg.stackCap then .next (splitRange s)
  else .fault .stackOverflow

/-- `LAST_EV <- e` (R242, R249). -/
def noteEvent (e : RespEvent) (s : State) : State := { s with de := { s.de with lastEv := some e } }

/-- A response event in `DS_BRANCH_WAIT` (R242). -/
def branchEvent (e : RespEvent) (s : State) : Result :=
  match e with
  | .timeout => .next (setDs .pop (noteEvent e s))
  | .avail => .next (setDs .branchRx (noteEvent e s))
  | .collision => collision (noteEvent e s)

/-- A response event in `DS_MUTE_WAIT` (R249). -/
def muteEvent (e : RespEvent) (s : State) : State :=
  match e with
  | .avail => setDs .muteRx (noteEvent e s)
  | .timeout => setDs .pop (noteEvent e s)
  | .collision => setDs .pop (noteEvent e s)

/-- State `DS_BRANCH_RX` (R243, R245, R259). -/
def stepBranchRx (s : State) : Result :=
  match bulkRead 0x83 s.cfg.lenRdrdm s with
  | (none, t) => collision t
  | (some d, t) =>
    match isolatedUid d with
    | some u => .next (setDs .muteTx { fillDbuf d t with de := { (fillDbuf d t).de with isoUid := u } })
    | none => collision (fillDbuf d t)

/-- State `DS_MUTE_RX` (R250): the answer is read and not parsed; a failure is ignored (R259). -/
def stepMuteRx (s : State) : State :=
  match bulkRead 0x83 s.cfg.lenRdrdm s with
  | (none, t) => setDs .pop t
  | (some d, t) => setDs .pop (fillDbuf d t)

/-- The delivery of a response event (R241): it ends a wait; elsewhere it is dropped. A requested cancel has
priority over it (R234, log 18). -/
def deliverEvent (e : RespEvent) (s : State) : Result :=
  match s.de.ds with
  | .branchWait => if s.de.cancelReq then .next (cancelPass s) else branchEvent e s
  | .muteWait => if s.de.cancelReq then .next (cancelPass s) else .next (muteEvent e s)
  | .idle | .pop | .branchTx | .branchRx | .muteTx | .muteRx | .unmuteTx => .next s

/-- A wait state at the DE's own turn (R234, R241): a cancel ends the wait; an event the reference environment
has ready is delivered; else the DE goes on waiting. -/
def stepWait (s : State) : Result :=
  if s.de.cancelReq then .next (cancelPass s)
  else
    match s.env.trx.event with
    | some e => deliverEvent e { s with env := { s.env with trx := s.env.trx.clearEvent } }
    | none => .next s

end Sys2Proof.Machine
end

