-- ==== Sys2Proof/Machine/FrameCodec.lean ====
section
/-! DEFINITION. The Frame Codec: the bulk reads and writes and the firmware blocks (spec 41_frame_codec.md R150 to R159). -/

namespace Sys2Proof.Machine

/-- The body of the bulk reads (R153): the window of `n` bytes that the command `cmd` reads. -/
def readWindow (cmd : Byte) (n : Nat) (s : State) : State :=
  match bulkRead cmd n s with
  | (some d, t) => complete (deliver d t)
  | (none, t) => raise .frameLengthError 0 t

/-- The body of the bulk writes after the length check (R156): `OBUF[0 .. n-1]` is sent. More bytes than `OBUF` has
are a wrong length (R24). -/
def writeWindow (cmd : Byte) (n : Nat) (s : State) : State :=
  if s.cfg.bufCap < n then raise .frameLengthError 0 s else complete (bulkWrite cmd (obufBytes s n) s)

/-- `CheckLen(n)` of R152, then the write. -/
def checkedWrite (cmd : Byte) (n : Nat) (s : State) : State :=
  if s.port.len.toNat ≠ n then raise .frameLengthError 0 s else writeWindow cmd n s

/-- RDDMX (R153). -/
def execRddmx (s : State) : Result := accepting .ordinary (fun t => readWindow 0x81 t.cfg.lenRddmx t) s

/-- RDASC (R154). -/
def execRdasc (s : State) : Result := accepting .ordinary (fun t => readWindow 0x82 t.cfg.lenRdasc t) s

/-- RDRDM (R155). -/
def execRdrdm (s : State) : Result := accepting .ordinary (fun t => readWindow 0x83 t.cfg.lenRdrdm t) s

/-- WRDMX (R156). -/
def execWrdmx (s : State) : Result := accepting .ordinary (fun t => checkedWrite 0x91 t.cfg.lenWrdmx t) s

/-- WRRDM (R157). -/
def execWrrdm (s : State) : Result := accepting .ordinary (fun t => checkedWrite 0x92 t.cfg.lenWrrdm t) s

/-- FWBLK1 (R158). -/
def execFwblk1 (s : State) : Result := accepting .ordinary (fun t => checkedWrite 0x8E t.cfg.lenFwblk1 t) s

/-- FWBLK2 (R159). -/
def execFwblk2 (s : State) : Result := accepting .ordinary (fun t => checkedWrite 0x8F t.cfg.lenFwblk2 t) s

/-- BUS.RDDMX (R92, R153): the transaction that the command byte 0x81 starts. -/
def execBusRddmx (s : State) : Result := accepting .ordinary (fun t => readWindow 0x81 t.cfg.lenRddmx t) s

/-- BUS.RDASC (R92, R154). -/
def execBusRdasc (s : State) : Result := accepting .ordinary (fun t => readWindow 0x82 t.cfg.lenRdasc t) s

/-- BUS.RDRDM (R92, R155). -/
def execBusRdrdm (s : State) : Result := accepting .ordinary (fun t => readWindow 0x83 t.cfg.lenRdrdm t) s

/-- BUS.WRDMX (R92, R156): the command byte fixes the length (R94), so there is none to check. -/
def execBusWrdmx (s : State) : Result := accepting .ordinary (fun t => writeWindow 0x91 t.cfg.lenWrdmx t) s

/-- BUS.WRRDM (R92, R157). -/
def execBusWrrdm (s : State) : Result := accepting .ordinary (fun t => writeWindow 0x92 t.cfg.lenWrrdm t) s

/-- BUS.FWBLK1 (R92, R158). -/
def execBusFwblk1 (s : State) : Result := accepting .ordinary (fun t => writeWindow 0x8E t.cfg.lenFwblk1 t) s

/-- BUS.FWBLK2 (R92, R159). -/
def execBusFwblk2 (s : State) : Result := accepting .ordinary (fun t => writeWindow 0x8F t.cfg.lenFwblk2 t) s

end Sys2Proof.Machine
end

