-- ==== Sys2Proof/Machine/Flags.lean ====
section
/-! DEFINITION. The flag computations of the IRQ dispatcher: what is pending, what is eligible, what is written back (spec 42_irq_dispatcher.md R173, R174, R177, R185, R188). -/

namespace Sys2Proof.Machine

/-- The handler numbers (R116). -/
def hRfLink : Nat := 0
def hDmxChanged : Nat := 1
def hSpiRdm : Nat := 2
def hSpiRadioDisc : Nat := 3

/-- One bit of a 4-bit flag register written. -/
def setFlag (v : BitVec 4) (k : Nat) (b : Bool) : BitVec 4 :=
  if b then v ||| (1#4 <<< k) else v &&& ~~~(1#4 <<< k)

/-- `PEND` after the read of `IRQ_FLAGS` (R173): bits 0 and 1. -/
def pendOfFlags (c : Cfg) (obs : Nat) (pend : BitVec 4) : BitVec 4 :=
  setFlag (setFlag pend hRfLink (obs.testBit c.bRfLink)) hDmxChanged (obs.testBit c.bDmxChanged)

/-- `PEND` after the read of `EXT_IRQ_FLAGS` (R174): bits 2 and 3. -/
def pendOfExt (c : Cfg) (obs : Nat) (pend : BitVec 4) : BitVec 4 :=
  setFlag (setFlag pend hSpiRdm (obs.testBit c.bSpiRdm)) hSpiRadioDisc (obs.testBit c.bSpiRadioDisc)

/-- `eligible(k)` of R177. -/
def eligible (d : Irqd) (k : Nat) : Bool :=
  d.pend.getLsbD k && !d.cons.getLsbD k && (!d.stale || k == 0)

/-- The handler to call next: the least eligible number (R177, R179). -/
def nextHandler (d : Irqd) : Option (BitVec 2) :=
  if eligible d 0 then some 0
  else if eligible d 1 then some 1
  else if eligible d 2 then some 2
  else if eligible d 3 then some 3
  else none

/-- A flag as an integer shifted to its bit (R185). -/
def flagAt (b : Bool) (bit : Nat) : Nat := if b then 1 <<< bit else 0

/-- `WB_EXT` of R185. -/
def wbExt (c : Cfg) (d : Irqd) : Nat :=
  flagAt (d.cons.getLsbD hSpiRdm) c.bSpiRdm ||| flagAt (d.cons.getLsbD hSpiRadioDisc) c.bSpiRadioDisc

/-- `ext_done` of R185. -/
def extDone (d : Irqd) : Bool :=
  d.extRead && (!d.pend.getLsbD hSpiRdm || d.cons.getLsbD hSpiRdm)
    && (!d.pend.getLsbD hSpiRadioDisc || d.cons.getLsbD hSpiRadioDisc)

/-- `WB_FLAGS` of R185. -/
def wbFlags (c : Cfg) (d : Irqd) : Nat :=
  flagAt (d.cons.getLsbD hRfLink) c.bRfLink ||| flagAt (d.cons.getLsbD hDmxChanged) c.bDmxChanged
    ||| flagAt (extDone d) c.bExtended

/-- Some observed flag is left unconsumed (R188). -/
def someUnconsumed (d : Irqd) : Bool := (d.pend &&& ~~~d.cons) != 0

end Sys2Proof.Machine
end

