-- ==== Sys2Proof/Machine/Ral.lean ====
section
/-! DEFINITION. The Register Access Layer: RDREG, WRREG, NOP and the register command bytes (spec 40_register_access.md). -/

namespace Sys2Proof.Machine

/-- The check of R131 and R133 for a read: the length the table gives, or the failure. -/
def checkRead (c : Cfg) (a : Byte) (len : Nat) : Except Failure Nat :=
  match lookup c a with
  | none => .error .accessDenied
  | some row =>
    if !row.readable then .error .accessDenied
    else if len ≠ row.length then .error .lengthMismatch
    else .ok row.length

/-- The check of R132 and R133 for a write. -/
def checkWrite (c : Cfg) (a : Byte) (len : Nat) : Except Failure Nat :=
  match lookup c a with
  | none => .error .accessDenied
  | some row =>
    if !row.writable then .error .accessDenied
    else if len ≠ row.length then .error .lengthMismatch
    else .ok row.length

/-- The body of R131: read the register `a`, asking for `len` bytes. -/
def readRegister (a : Byte) (len : Nat) (s : State) : State :=
  match checkRead s.cfg a len with
  | .error e => raise e 0 s
  | .ok n =>
    match memRead a n s with
    | (some d, t) => complete (deliver d t)
    | (none, t) => raise .lengthMismatch 0 t

/-- The body of R132: write `OBUF[0 .. len-1]` to the register `a`. -/
def writeRegister (a : Byte) (len : Nat) (s : State) : State :=
  match checkWrite s.cfg a len with
  | .error e => raise e 0 s
  | .ok n => complete (memWrite a (obufBytes s n) s)

/-- The body of R134: one no-op transaction. -/
def noOperation (s : State) : State := complete (busXfer [0xFF] s)

/-- RDREG (R131): the address is `A0`, the requested length `LEN`. -/
def execRdreg (s : State) : Result :=
  accepting .ordinary (fun t => readRegister t.port.a0 t.port.len.toNat t) s

/-- WRREG (R132). -/
def execWrreg (s : State) : Result :=
  accepting .ordinary (fun t => writeRegister t.port.a0 t.port.len.toNat t) s

/-- NOP (R134). -/
def execNop (s : State) : Result := accepting .ordinary noOperation s

/-- BUS.RDREG (R92, R131): the read that the command byte `0b00aaaaaa` starts; its length is the table's (R94, R120). -/
def execBusRdreg (a : BitVec 6) (s : State) : Result :=
  accepting .ordinary (fun t => readRegister (a.zeroExtend 8) (tableLength t.cfg (a.zeroExtend 8)) t) s

/-- BUS.WRREG (R92, R132): the write that the command byte `0b01aaaaaa` starts. -/
def execBusWrreg (a : BitVec 6) (s : State) : Result :=
  accepting .ordinary (fun t => writeRegister (a.zeroExtend 8) (tableLength t.cfg (a.zeroExtend 8)) t) s

/-- BUS.NOP (R92, R93, R134). -/
def execBusNop (s : State) : Result := accepting .ordinary noOperation s

end Sys2Proof.Machine
end

