-- ==== Sys2Proof/Machine/IrqDispatcher.lean ====
section
/-! DEFINITION. The IRQ dispatcher: POLL, HRET and the steps of a pass (spec 42_irq_dispatcher.md R172 to R188). -/

namespace Sys2Proof.Machine

/-- The start of a pass (R172): `irq_pending` and the working registers are cleared. -/
def startPass (s : State) : State :=
  { s with irqd :=
      { iq := .rdflags, irqPending := false, obsFlags := 0, obsExt := 0, extRead := false, pend := 0, cons := 0, stale := false, hcall := 0 } }

/-- The body of POLL (R172). -/
def pollBody (s : State) : State := if s.irqd.irqPending then startPass s else complete s

/-- The return from a call-out (R181): the flag is consumed, and the handler of `RF_LINK` answers `stale`. -/
def returnFromHandler (s : State) : State :=
  complete { s with irqd :=
    { s.irqd with
      iq := .dispatch
      cons := setFlag s.irqd.cons s.irqd.hcall.toNat true
      stale := if s.irqd.hcall = 0 then a0Flag s else s.irqd.stale } }

/-- POLL (R172). -/
def execPoll (s : State) : Result := accepting .poll pollBody s

/-- HRET (R181). -/
def execHret (s : State) : Result := accepting .hret returnFromHandler s

/-- The end of a pass whose own read failed (R176): POLL completes with the failure and the next one tries again. -/
def failPass (e : Failure) (s : State) : State :=
  raise e 0 { s with irqd := { s.irqd with irqPending := true, iq := .idle } }

/-- The IRQD's read of a flag register, checked like an RDREG of the table's length (R140, R176). -/
def readFlagRegister (a : Byte) (s : State) : Except Failure Nat × State :=
  match checkRead s.cfg a (tableLength s.cfg a) with
  | .error e => (.error e, s)
  | .ok n =>
    match memRead a n s with
    | (some d, t) => (.ok (be d), t)
    | (none, t) => (.error .lengthMismatch, t)

/-- The IRQD's write-back of a flag register, checked like a WRREG and skipped when the value is zero (R140, R183, R184). -/
def writeBack (a : Byte) (v : Nat) (s : State) : State :=
  if v = 0 then s
  else
    match checkWrite s.cfg a (tableLength s.cfg a) with
    | .error _ => s
    | .ok n => memWrite a (beBytes n v) s

/-- State `IQ_RDFLAGS` (R173). -/
def stepRdflags (s : State) : State :=
  match readFlagRegister s.cfg.irqFlagsAddr s with
  | (.error e, t) => failPass e t
  | (.ok obs, t) =>
    { t with irqd :=
      { t.irqd with
        obsFlags := obs
        pend := pendOfFlags t.cfg obs t.irqd.pend
        iq := if obs.testBit t.cfg.bExtended then .rdext else .dispatch } }

/-- State `IQ_RDEXT` (R174). -/
def stepRdext (s : State) : State :=
  match readFlagRegister s.cfg.extIrqFlagsAddr s with
  | (.error e, t) => failPass e t
  | (.ok obs, t) =>
    { t with irqd :=
      { t.irqd with
        obsExt := obs
        extRead := true
        pend := pendOfExt t.cfg obs t.irqd.pend
        iq := .dispatch } }

/-- State `IQ_DISPATCH` (R177): call the next handler, or go on to the write-back. -/
def stepDispatch (s : State) : State :=
  match nextHandler s.irqd with
  | some k => { s with irqd := { s.irqd with hcall := k, iq := .call } }
  | none => { s with irqd := { s.irqd with iq := .wbext } }

/-- State `IQ_WBEXT` (R183). -/
def stepWbext (s : State) : State :=
  let t := writeBack s.cfg.extIrqFlagsAddr (wbExt s.cfg s.irqd) s
  { t with irqd := { t.irqd with iq := .wbflags } }

/-- The end of a pass (R188): re-arm if an observed flag is unconsumed; POLL completes. -/
def endPass (s : State) : State :=
  complete { s with irqd := { s.irqd with irqPending := s.irqd.irqPending || someUnconsumed s.irqd, iq := .idle } }

/-- State `IQ_WBFLAGS` (R184, R188). -/
def stepWbflags (s : State) : State :=
  endPass (writeBack s.cfg.irqFlagsAddr (wbFlags s.cfg s.irqd) s)

end Sys2Proof.Machine
end

