-- ==== Sys2Proof/Machine/Lifecycle.lean ====
section
/-! DEFINITION. The lifecycle of the device handle: reset, ATTACH and DETACH (spec 70_reset_and_hazards.md R320, R322, R323). -/

namespace Sys2Proof.Machine

/-- The body of ATTACH (R322): every register with a reset value goes back to it, except `attached`. -/
def attachBody (s : State) : State :=
  complete { s with
    attached := true
    tn := 0
    irqd := { iq := .idle, irqPending := false, obsFlags := 0, obsExt := 0, extRead := false, pend := 0, cons := 0, stale := false, hcall := 0 }
    de := { s.de with
      ds := .idle
      sp := 0
      retry := 0
      conf := []
      abnd := []
      discOvf := false
      unmuteAtEnd := false
      cancelReq := false
      cancelling := false
      discStatus := .none
      lastEv := none }
    res := { s.res with rlen := 0 }
    dec := { role := .none, kind := .none, arg := 0 } }

/-- The body of DETACH in NORMAL mode (R323). -/
def detachBody (s : State) : State :=
  complete { s with attached := false, irqd := { s.irqd with irqPending := false } }

/-- ATTACH (R322). -/
def execAttach (s : State) : Result := accepting .attach attachBody s

/-- DETACH (R323): in DISCOVERY mode it is held, and while it is offered the pass is asked to unwind. -/
def execDetach (s : State) : Result :=
  if portColumn s = .discovery then .next (requestCancel s) else accepting .detach detachBody s

/-- Power-on or external reset (R320): the registers of R58. The environment and the configuration are not
the SSPE's and stay (log 17). -/
def externalReset (s : State) : State := State.resetWith s.cfg s.env

end Sys2Proof.Machine
end

