-- ==== Sys2Proof/Machine/RdmCodec.lean ====
section
/-! DEFINITION. The RDM Packet Codec: RDMENC and RDMDEC (spec 43_rdm_codec.md R201, R204, R210, R211, R216). -/

namespace Sys2Proof.Machine

/-- With `AUTO_TN` the frame takes the counter, which advances (R204). -/
def takeAutoTn (s : State) : State :=
  if a0Flag s then advanceTn { s with f := { s.f with tn := s.tn } } else s

/-- The frame and the length fields that RDMENC writes (R201), once the transaction number is chosen. -/
def encodeToRbuf (p : Nat) (s : State) : State :=
  let frame := encodeFrame (fieldsMessage s.f) (obufBytes s p)
  let t := deliver frame s
  complete { t with
    f := { t.f with
      ml := BitVec.ofNat 8 (24 + p)
      pdl := BitVec.ofNat 8 p
      cksum := BitVec.ofNat 16 (be (slice frame (24 + p) 2)) } }

/-- The body of RDMENC (R201). More bytes than `OBUF` has are a wrong length (R24). -/
def rdmEncode (s : State) : State :=
  if 230 < s.port.len.toNat ∨ s.cfg.bufCap < s.port.len.toNat then raise .lengthMismatch 0 s
  else encodeToRbuf s.port.len.toNat (takeAutoTn s)

/-- What a decode finds before it writes anything (R210): the fields, the role, the kind and its argument. -/
def decodeFrame (rt : ResponseTypes) (f : List Byte) : Except Failure (RdmFields × Decoded) :=
  match frameParse f with
  | some e => .error e
  | none =>
    match kindOf rt (roleOf (messageOf f).cc) (messageOf f).prt (frameData f) with
    | .error e => .error e
    | .ok (kind, arg) => .ok (frameFields f, { role := roleOf (messageOf f).cc, kind := kind, arg := arg })

/-- The results of a successful decode, and its completion: a NACK is surfaced as a failure after everything
was written (R210, R216). -/
def writeDecoded (fields : RdmFields) (d : Decoded) (pd : List Byte) (s : State) : State :=
  let t := deliver pd { s with f := fields, dec := d }
  if d.kind = .nackReason then raise .nackReason d.arg t else complete t

/-- The body of RDMDEC (R210). -/
def rdmDecode (s : State) : State :=
  if s.cfg.bufCap < s.port.len.toNat then raise .lengthMismatch 0 s
  else
    let f := obufBytes s s.port.len.toNat
    match decodeFrame s.cfg.rts f with
    | .error e => raise e 0 s
    | .ok (fields, d) => writeDecoded fields d (frameData f) s

/-- RDMENC (R201). -/
def execRdmenc (s : State) : Result := accepting .ordinary rdmEncode s

/-- RDMDEC (R210). -/
def execRdmdec (s : State) : Result := accepting .ordinary rdmDecode s

end Sys2Proof.Machine
end

