-- ==== Sys2Proof/Machine/Dispatch.lean ====
section
/-! DEFINITION. The dispatch of an instruction to its meaning: one arm per row of the opcode table. -/

namespace Sys2Proof.Machine

def exec (i : Instr) (s : State) : Host.Outcome State Fault Refusal :=
  match i with
  | .busRdreg a => Sys2Proof.Machine.execBusRdreg a s
  | .busWrreg a => Sys2Proof.Machine.execBusWrreg a s
  | .busRddmx => Sys2Proof.Machine.execBusRddmx s
  | .busRdasc => Sys2Proof.Machine.execBusRdasc s
  | .busRdrdm => Sys2Proof.Machine.execBusRdrdm s
  | .busFwblk1 => Sys2Proof.Machine.execBusFwblk1 s
  | .busFwblk2 => Sys2Proof.Machine.execBusFwblk2 s
  | .busWrdmx => Sys2Proof.Machine.execBusWrdmx s
  | .busWrrdm => Sys2Proof.Machine.execBusWrrdm s
  | .busNop => Sys2Proof.Machine.execBusNop s
  | .attach => Sys2Proof.Machine.execAttach s
  | .detach => Sys2Proof.Machine.execDetach s
  | .nop => Sys2Proof.Machine.execNop s
  | .rdreg => Sys2Proof.Machine.execRdreg s
  | .wrreg => Sys2Proof.Machine.execWrreg s
  | .rddmx => Sys2Proof.Machine.execRddmx s
  | .rdasc => Sys2Proof.Machine.execRdasc s
  | .rdrdm => Sys2Proof.Machine.execRdrdm s
  | .wrdmx => Sys2Proof.Machine.execWrdmx s
  | .wrrdm => Sys2Proof.Machine.execWrrdm s
  | .fwblk1 => Sys2Proof.Machine.execFwblk1 s
  | .fwblk2 => Sys2Proof.Machine.execFwblk2 s
  | .rdmenc => Sys2Proof.Machine.execRdmenc s
  | .rdmdec => Sys2Proof.Machine.execRdmdec s
  | .poll => Sys2Proof.Machine.execPoll s
  | .hret => Sys2Proof.Machine.execHret s
  | .discstart => Sys2Proof.Machine.execDiscstart s
  | .disccancel => Sys2Proof.Machine.execDisccancel s
  | .discUniqueBranch => Sys2Proof.Machine.execDiscUniqueBranch s
  | .discMute => Sys2Proof.Machine.execDiscMute s
  | .discUnMute => Sys2Proof.Machine.execDiscUnMute s

end Sys2Proof.Machine
end

