-- ==== Sys2Proof/Machine/Turns.lean ====
section
/-! DEFINITION. Whose turn it is and what a turn does: the host port, the running sequencer, and the acts of the agents outside (spec 00_scope.md R4, 10_state.md R30, 30_encoding.md R101, R102, R121, 60_exceptions.md R300, R304). -/

namespace Sys2Proof.Machine

/-- The host port looks at the offered operation: its selector is looked up (R8, R100) and the operation is executed as far
as R300 allows; a selector that selects nothing is dropped (R102). -/
def portTurn (s : State) : Result :=
  if s.port.offered then
    match selected s.cfg.selectors s.port.hop with
    | some i => exec i s
    | none => .next (dropOffer s)
  else .next s

/-- The DE's own step, by `ds` (R231): in the three sending states it executes the request of that state. -/
def discTurn (s : State) : Result :=
  match s.de.ds with
  | .idle => .next s
  | .pop => .next (stepPop s)
  | .branchTx => exec .discUniqueBranch s
  | .branchWait => stepWait s
  | .branchRx => stepBranchRx s
  | .muteTx => exec .discMute s
  | .muteWait => stepWait s
  | .muteRx => .next (stepMuteRx s)
  | .unmuteTx => exec .discUnMute s

/-- The running sequencer takes its next step: the IRQD in its stepping states (R171), else the DE; an idle SSPE
stays as it is (R304), and in `IQ_CALL` the IRQD waits for the HOST. -/
def seqTurn (s : State) : Result :=
  match s.irqd.iq with
  | .rdflags => .next (stepRdflags s)
  | .rdext => .next (stepRdext s)
  | .dispatch => .next (stepDispatch s)
  | .wbext => .next (stepWbext s)
  | .wbflags => .next (stepWbflags s)
  | .call => .next s
  | .idle => discTurn s

/-- What R300 says of the offered operation. -/
def offerDisposition (s : State) : Disposition :=
  match selected s.cfg.selectors s.port.hop with
  | none => .refused
  | some i =>
    match opClass i with
    | some k => acceptance k (portColumn s)
    | none => .refused

/-- A DETACH offered in DISCOVERY mode has not yet asked the pass to unwind (R323). -/
def detachWantsCancel (s : State) : Bool :=
  decide (selected s.cfg.selectors s.port.hop = some .detach) && decide (portColumn s = .discovery) && !s.de.cancelReq

/-- When nothing is scripted, the host port moves first if the offered operation is not held (log 8). -/
def portReady (s : State) : Bool :=
  s.port.offered && (decide (offerDisposition s ≠ .held) || detachWantsCancel s)

/-- One act of the script (R4, R121). The bytes of an `ENV` line are stored as given, whatever their number (log 29). -/
def applyAct (a : Act) (s : State) : Result :=
  match a with
  | .port => portTurn s
  | .seq => seqTurn s
  | .write w => hostWrite w s
  | .offer h => .next { s with port := { s.port with hop := h, offered := true } }
  | .withdraw => .next (dropOffer s)
  | .irqAssert => .next (irqAssert s)
  | .event e => deliverEvent e s
  | .reset => .next (externalReset s)
  | .envReg r v => .next { s with env := { s.env with trx := s.env.trx.edit fun e => { e with reg := setBytes e.reg r v } } }
  | .envRegOr r v => .next { s with env := { s.env with trx := s.env.trx.edit fun e => e.orReg r v } }
  | .envWin c v => .next { s with env := { s.env with trx := s.env.trx.edit fun e => { e with win := setBytes e.win c v } } }

/-- The state with the script's remaining acts. -/
def withScript (rest : List Act) (s : State) : State := { s with env := { s.env with script := rest } }

/-- One move of the machine: the next act of the script, or, when there is none, the turn of log 8. -/
def move (s : State) : Result :=
  match s.env.script with
  | a :: rest => applyAct a (withScript rest s)
  | [] => if portReady s then portTurn s else seqTurn s

/-! ### Offering one instruction as the very next one (log 10) -/

/-- Nothing scripted and no sequencer running, so that the host port moves next; the operation with selector
`hop` is offered. -/
def offerOperation (hop : Byte) (needsHandle : Bool) (iq : Iq) (s : State) : State :=
  { s with
    attached := s.attached || needsHandle
    port := { s.port with hop := hop, offered := true }
    irqd := { s.irqd with iq := iq }
    de := { s.de with ds := .idle }
    env := { s.env with script := [] } }

/-- The operand `LEN` set to a number of bytes. -/
def withLen (n : Nat) (s : State) : State := { s with port := { s.port with len := BitVec.ofNat 16 n } }

/-- The operand `A0` set. -/
def withA0 (a : Byte) (s : State) : State := { s with port := { s.port with a0 := a } }

/-- Nothing offered or scripted and the DE in a sending state, so that it emits its request next. -/
def atRequest (d : Ds) (s : State) : State :=
  { s with
    attached := true
    port := { s.port with offered := false }
    irqd := { s.irqd with iq := .idle }
    de := { s.de with ds := d }
    env := { s.env with script := [] } }

/-- The state whose next step runs an instruction: a HOST operation is offered; a bus command byte is emitted by
the operation of its rule, which is offered with the operands the byte stands for (log 11); a request of the DE
is the one of the state the DE is in (log 12). -/
def armInstr (i : Instr) (s : State) : State :=
  match i with
  | .attach => offerOperation s.cfg.selectors.attach false .idle s
  | .detach => offerOperation s.cfg.selectors.detach true .idle s
  | .nop => offerOperation s.cfg.selectors.nop true .idle s
  | .rdreg => offerOperation s.cfg.selectors.rdreg true .idle s
  | .wrreg => offerOperation s.cfg.selectors.wrreg true .idle s
  | .rddmx => offerOperation s.cfg.selectors.rddmx true .idle s
  | .rdasc => offerOperation s.cfg.selectors.rdasc true .idle s
  | .rdrdm => offerOperation s.cfg.selectors.rdrdm true .idle s
  | .wrdmx => offerOperation s.cfg.selectors.wrdmx true .idle s
  | .wrrdm => offerOperation s.cfg.selectors.wrrdm true .idle s
  | .fwblk1 => offerOperation s.cfg.selectors.fwblk1 true .idle s
  | .fwblk2 => offerOperation s.cfg.selectors.fwblk2 true .idle s
  | .rdmenc => offerOperation s.cfg.selectors.rdmenc true .idle s
  | .rdmdec => offerOperation s.cfg.selectors.rdmdec true .idle s
  | .poll => offerOperation s.cfg.selectors.poll true .idle s
  | .hret => offerOperation s.cfg.selectors.hret true .call s
  | .discstart => offerOperation s.cfg.selectors.discstart true .idle s
  | .disccancel => offerOperation s.cfg.selectors.disccancel true .idle s
  | .busRdreg a =>
    offerOperation s.cfg.selectors.rdreg true .idle (withA0 (a.zeroExtend 8) (withLen (tableLength s.cfg (a.zeroExtend 8)) s))
  | .busWrreg a =>
    offerOperation s.cfg.selectors.wrreg true .idle (withA0 (a.zeroExtend 8) (withLen (tableLength s.cfg (a.zeroExtend 8)) s))
  | .busRddmx => offerOperation s.cfg.selectors.rddmx true .idle s
  | .busRdasc => offerOperation s.cfg.selectors.rdasc true .idle s
  | .busRdrdm => offerOperation s.cfg.selectors.rdrdm true .idle s
  | .busWrdmx => offerOperation s.cfg.selectors.wrdmx true .idle (withLen s.cfg.lenWrdmx s)
  | .busWrrdm => offerOperation s.cfg.selectors.wrrdm true .idle (withLen s.cfg.lenWrrdm s)
  | .busFwblk1 => offerOperation s.cfg.selectors.fwblk1 true .idle (withLen s.cfg.lenFwblk1 s)
  | .busFwblk2 => offerOperation s.cfg.selectors.fwblk2 true .idle (withLen s.cfg.lenFwblk2 s)
  | .busNop => offerOperation s.cfg.selectors.nop true .idle s
  | .discUniqueBranch => atRequest .branchTx s
  | .discMute => atRequest .muteTx s
  | .discUnMute => atRequest .unmuteTx s

end Sys2Proof.Machine
end

