-- ==== Sys2Proof/WellFormed.lean ====
section
/-! DEFINITION. When a configuration is well-formed (spec 00_scope.md R9); the machine refuses any other.
An instruction needs no check of its own: its one operand, the register address of a command byte, is 6 bits wide by type (R91). -/

namespace Sys2Proof

open Sys2Proof.Machine (reservedUid lookup lenIrqFlags lenExtIrqFlags readWrite)

/-- R9 (a): no two entries of `REGTAB` have the same address. -/
def Cfg.addressesUnique (c : Cfg) : Bool :=
  decide ((c.regtab.map (·.address)).Nodup)

/-- R9 (b): every address in `REGTAB` is at most 0x3F. -/
def Cfg.addressesInRange (c : Cfg) : Bool :=
  c.regtab.all fun r => decide (r.address.toNat ≤ 0x3F)

/-- R9 (c): every length in `REGTAB` is at least 1 and at most `BUF_CAP`. -/
def Cfg.lengthsInRange (c : Cfg) : Bool :=
  c.regtab.all fun r => decide (1 ≤ r.length ∧ r.length ≤ c.bufCap)

/-- R9 (d): the two flag registers are different rows, each readable and writable. -/
def Cfg.flagRegistersUsable (c : Cfg) : Bool :=
  c.irqFlagsAddr != c.extIrqFlagsAddr && readWrite c c.irqFlagsAddr && readWrite c c.extIrqFlagsAddr

/-- R9 (e): the flag bits are pairwise different and inside their registers. -/
def Cfg.flagBitsUsable (c : Cfg) : Bool :=
  decide (c.bDmxChanged ≠ c.bRfLink ∧ c.bDmxChanged ≠ c.bExtended ∧ c.bRfLink ≠ c.bExtended
    ∧ c.bDmxChanged < 8 * lenIrqFlags c ∧ c.bRfLink < 8 * lenIrqFlags c ∧ c.bExtended < 8 * lenIrqFlags c
    ∧ c.bSpiRdm ≠ c.bSpiRadioDisc
    ∧ c.bSpiRdm < 8 * lenExtIrqFlags c ∧ c.bSpiRadioDisc < 8 * lenExtIrqFlags c)

/-- R9 (f): every discovery request and every shortest frame fits its window. -/
def Cfg.rdmWindowsLargeEnough (c : Cfg) : Bool :=
  decide (38 ≤ c.lenWrrdm ∧ 26 ≤ c.lenRdrdm)

/-- R9 (g): `STACK_CAP` is at least 49. -/
def Cfg.stackLargeEnough (c : Cfg) : Bool := decide (49 ≤ c.stackCap)

/-- R9 (h): `OWN_UID` is not a reserved UID. -/
def Cfg.ownUidUsable (c : Cfg) : Bool := !reservedUid c.ownUid

/-- The type column of R8, where the Lean type is wider: "byte counts, each at least 1", and `length: u32`. -/
def Cfg.typesRespected (c : Cfg) : Bool :=
  decide (1 ≤ c.lenRddmx ∧ 1 ≤ c.lenRdasc ∧ 1 ≤ c.lenRdrdm ∧ 1 ≤ c.lenWrdmx ∧ 1 ≤ c.lenWrrdm
    ∧ 1 ≤ c.lenFwblk1 ∧ 1 ≤ c.lenFwblk2) && c.regtab.all fun r => decide (r.length < 2 ^ 32)

/-- A well-formed configuration: a record of the types of R8 for which R9 (a) to (h) hold. -/
def Cfg.wf (c : Cfg) : Bool :=
  c.addressesUnique && c.addressesInRange && c.lengthsInRange && c.flagRegistersUsable && c.flagBitsUsable
    && c.rdmWindowsLargeEnough && c.stackLargeEnough && c.ownUidUsable && c.typesRespected

end Sys2Proof
end

