-- ==== Sys2Proof/Machine/Step.lean ====
section
/-! DEFINITION. One step of the machine, and the placing of one instruction where the next step takes it. -/

namespace Sys2Proof.Machine

/-- One step: a configuration that is not well-formed is refused (R9); else the machine makes one move. -/
def step (s : State) : Host.Outcome State Fault Refusal :=
  if s.cfg.wf then move s else .refused .illFormedConfig

/-- `s` with one instruction of the opcode table placed so that the very next step runs it (log 10); a word that
is no instruction is offered as an operation selector. -/
def State.withFetchWord (s : State) (nbits w : Nat) : State :=
  match decodeTableWord nbits w with
  | some i => armInstr i s
  | none => offerOperation (BitVec.ofNat 8 w) true .idle s

end Sys2Proof.Machine
end

