-- ==== Sys2Proof/Machine/HostPort.lean ====
section
/-! DEFINITION. What the HOST reads: the numbers of the named values (spec 30_encoding.md R115 to R118, 10_state.md R30, R54) and every register but DBUF (R55, R310). -/

namespace Sys2Proof.Machine

/-- `code(E)` of R115, by the numbers of the configuration (R8). -/
def failureCode (n : StatusCodes) : Failure → Nat
  | .accessDenied => n.accessDenied.toNat
  | .lengthMismatch => n.lengthMismatch.toNat
  | .frameLengthError => n.frameLengthError.toNat
  | .checksumError => n.checksumError.toNat
  | .badStartCode => n.badStartCode.toNat
  | .nackReason => n.nackReason.toNat
  | .timeout => n.timeout.toNat

/-- The value of `STATUS` (R14, R115). Two statuses with one number look alike to the HOST (log 30). -/
def statusCode (n : StatusCodes) : Status → Nat
  | .ok => 0
  | .failed e => failureCode n e

/-- The number under which the HOST sees a handler (R8, R116). The model's own index of the handlers is the order of
R116, whatever the numbers are (log 3). -/
def handlerId (n : HandlerIds) (k : BitVec 2) : BitVec 2 :=
  if k = 0 then n.rfLink else if k = 1 then n.dmxChanged else if k = 2 then n.spiRdm else n.spiRadioDisc

/-- `PEND` or `CONS` as the HOST sees it: the bit of a handler stands at its number (R116; log 3). Of handlers with
one number the HOST sees one bit, set when the flag of any of them is (log 30). -/
def handlerBits (n : HandlerIds) (v : BitVec 4) : Nat :=
  (flagAt (v.getLsbD hRfLink) n.rfLink.toNat ||| flagAt (v.getLsbD hDmxChanged) n.dmxChanged.toNat)
    ||| (flagAt (v.getLsbD hSpiRdm) n.spiRdm.toNat ||| flagAt (v.getLsbD hSpiRadioDisc) n.spiRadioDisc.toNat)

/-- The number of `iq` (R30). -/
def iqCode : Iq → Nat
  | .idle => 0
  | .rdflags => 1
  | .rdext => 2
  | .dispatch => 3
  | .call => 4
  | .wbext => 5
  | .wbflags => 6

/-- The number of `ds` (R30). -/
def dsCode : Ds → Nat
  | .idle => 0
  | .pop => 1
  | .branchTx => 2
  | .branchWait => 3
  | .branchRx => 4
  | .muteTx => 5
  | .muteWait => 6
  | .muteRx => 7
  | .unmuteTx => 8

/-- The value of `MSG_ROLE` (R118). -/
def roleCode : MsgRole → Nat
  | .none => 0
  | .request => 1
  | .response => 2
  | .unknown => 3

/-- The value of `RESP_KIND` (R118). -/
def kindCode : RespKind → Nat
  | .none => 0
  | .ack => 1
  | .ackTimer => 2
  | .nackReason => 3
  | .ackOverflow => 4
  | .unknown => 5

/-- The value of `DISC_STATUS` (R54). -/
def discStatusCode : DiscStatus → Nat
  | .none => 0
  | .running => 1
  | .done => 2
  | .cancelled => 3

/-- The value of `LAST_EV` (R117), by the numbers of the configuration (R8; equal numbers: log 30). -/
def eventCode (n : EventCodes) : Option RespEvent → Nat
  | none => 0
  | some .avail => n.avail.toNat
  | some .collision => n.collision.toNat
  | some .timeout => n.timeout.toNat

/-- The registers the HOST can read: all of 10_state.md but `DBUF` (R310). -/
inductive HostReg where
  | attached | irqPending
  | hop | a0 | len | obuf (i : Nat)
  | status | errInfo | rlen | rbuf (i : Nat) | firstRx
  | fMl | fDest | fSrc | fTn | fPortRt | fMc | fSubdev | fCc | fPid | fPdl | fCksum
  | msgRole | respKind | respArg
  | iq | ds
  | obsFlags | obsExt | extRead | pend | cons | stale | hcall
  | stkLo (i : Nat) | stkHi (i : Nat) | sp | curLo | curHi | retry | isoUid
  | confN | conf (i : Nat) | abndN | abnd (i : Nat) | discOvf
  | tn | unmuteAtEnd | cancelReq | cancelling | discStatus | lastEv
  deriving DecidableEq, Repr

/-- The element of an indexed register file, if there is one with this index. -/
def readIndexed (n i v : Nat) : Option Nat := if i < n then some v else none

/-- The number the HOST reads from a register. `none`: there is no such register (an index at or beyond `BUF_CAP` or
`STACK_CAP`), or it holds no value (an entry of `CONF` or `ABND` at or beyond its count: R58; log 27). -/
def hostRead (r : HostReg) (s : State) : Option Nat :=
  match r with
  | .attached => some s.attached.toNat
  | .irqPending => some s.irqd.irqPending.toNat
  | .hop => some s.port.hop.toNat
  | .a0 => some s.port.a0.toNat
  | .len => some s.port.len.toNat
  | .obuf i => readIndexed s.cfg.bufCap i (s.port.obuf.read i).toNat
  | .status => some (statusCode s.cfg.statusCodes s.res.status)
  | .errInfo => some s.res.errInfo.toNat
  | .rlen => some s.res.rlen.toNat
  | .rbuf i => readIndexed s.cfg.bufCap i (s.res.rbuf.read i).toNat
  | .firstRx => some s.res.firstRx.toNat
  | .fMl => some s.f.ml.toNat
  | .fDest => some s.f.dest.toNat
  | .fSrc => some s.f.src.toNat
  | .fTn => some s.f.tn.toNat
  | .fPortRt => some s.f.portRt.toNat
  | .fMc => some s.f.mc.toNat
  | .fSubdev => some s.f.subdev.toNat
  | .fCc => some s.f.cc.toNat
  | .fPid => some s.f.pid.toNat
  | .fPdl => some s.f.pdl.toNat
  | .fCksum => some s.f.cksum.toNat
  | .msgRole => some (roleCode s.dec.role)
  | .respKind => some (kindCode s.dec.kind)
  | .respArg => some s.dec.arg.toNat
  | .iq => some (iqCode s.irqd.iq)
  | .ds => some (dsCode s.de.ds)
  | .obsFlags => some s.irqd.obsFlags
  | .obsExt => some s.irqd.obsExt
  | .extRead => some s.irqd.extRead.toNat
  | .pend => some (handlerBits s.cfg.handlerIds s.irqd.pend)
  | .cons => some (handlerBits s.cfg.handlerIds s.irqd.cons)
  | .stale => some s.irqd.stale.toNat
  | .hcall => some (handlerId s.cfg.handlerIds s.irqd.hcall).toNat
  | .stkLo i => s.de.stk[i]?.map fun r => r.lo.toNat
  | .stkHi i => s.de.stk[i]?.map fun r => r.hi.toNat
  | .sp => some s.de.sp
  | .curLo => some s.de.curLo.toNat
  | .curHi => some s.de.curHi.toNat
  | .retry => some s.de.retry
  | .isoUid => some s.de.isoUid.toNat
  | .confN => some s.de.conf.length
  | .conf i => s.de.conf[i]?.map fun u => u.toNat
  | .abndN => some s.de.abnd.length
  | .abnd i => s.de.abnd[i]?.map fun u => u.toNat
  | .discOvf => some s.de.discOvf.toNat
  | .tn => some s.tn.toNat
  | .unmuteAtEnd => some s.de.unmuteAtEnd.toNat
  | .cancelReq => some s.de.cancelReq.toNat
  | .cancelling => some s.de.cancelling.toNat
  | .discStatus => some (discStatusCode s.de.discStatus)
  | .lastEv => some (eventCode s.cfg.eventCodes s.de.lastEv)

end Sys2Proof.Machine
end

