-- ==== Sys2Proof/Safety.lean ====
section
/-! DEFINITION. What counts as a safe state of the SSPE, in the terms the claims use: modes, byte memories, dispatcher flags, discovery stack, transactions. -/

namespace Sys2Proof.Machine

/-! ### Modes and acceptance -/

/-- Mode NORMAL with a device handle (R23, R300). -/
def InNormal (s : State) : Prop := s.attached = true ∧ s.irqd.iq = .idle ∧ s.de.ds = .idle

/-- The IRQD waits for the HOST in a call-out (R181). -/
def InCall (s : State) : Prop := s.attached = true ∧ s.irqd.iq = .call

/-- Mode DISCOVERY with a device handle. -/
def InDiscovery (s : State) : Prop := s.attached = true ∧ s.irqd.iq = .idle ∧ s.de.ds ≠ .idle

/-- The IRQD leaves this state by itself (R300, column "IRQD stepping"). -/
def InStepping (s : State) : Prop := s.attached = true ∧ s.irqd.iq ≠ .idle ∧ s.irqd.iq ≠ .call

/-- Ordinary operations are accepted (R300). -/
def AcceptsOrdinary (s : State) : Prop := InNormal s ∨ InCall s

/-- The IRQD and the DE are never both running, and without a handle neither is and nothing is pending (R21 to R23). -/
def ModesExclusive (s : State) : Prop :=
  (s.irqd.iq = .idle ∨ s.de.ds = .idle)
    ∧ (s.attached = false → s.irqd.iq = .idle ∧ s.de.ds = .idle ∧ s.irqd.irqPending = false)

/-! ### Byte memories -/

/-- The byte memories are in canonical form and hold nothing beyond their capacities (R24, R25, R55). -/
def BuffersSound (s : State) : Prop :=
  (s.port.obuf.wf ∧ ∀ c ∈ s.port.obuf, c.1 < s.cfg.bufCap)
    ∧ (s.res.rbuf.wf ∧ ∀ c ∈ s.res.rbuf, c.1 < s.cfg.bufCap)
    ∧ (s.de.dbuf.wf ∧ ∀ c ∈ s.de.dbuf, c.1 < s.cfg.dbufCap)

/-! ### The dispatcher -/

/-- What the working registers say of one pass (R33, R172 to R181): a flag that is pending was observed, a flag that
is consumed was pending, and `EXT_IRQ_FLAGS` is read only after `EXTENDED` was observed. -/
structure DispatchSound (c : Cfg) (d : Irqd) : Prop where
  consumed_pending : ∀ k < 4, d.cons.getLsbD k = true → d.pend.getLsbD k = true
  called_pending : d.iq = .call → d.pend.getLsbD d.hcall.toNat = true
  rfLink_observed : d.pend.getLsbD hRfLink = true → d.obsFlags.testBit c.bRfLink = true
  dmxChanged_observed : d.pend.getLsbD hDmxChanged = true → d.obsFlags.testBit c.bDmxChanged = true
  spiRdm_observed : d.pend.getLsbD hSpiRdm = true → d.obsExt.testBit c.bSpiRdm = true
  spiRadioDisc_observed : d.pend.getLsbD hSpiRadioDisc = true → d.obsExt.testBit c.bSpiRadioDisc = true
  extended_observed : d.extRead = true ∨ d.iq = .rdext → d.obsFlags.testBit c.bExtended = true
  ext_unread : d.extRead = false → d.obsExt = 0
  rdflags_fresh : d.iq = .rdflags → d.pend = 0 ∧ d.cons = 0 ∧ d.extRead = false
  rdext_fresh : d.iq = .rdext → d.pend.getLsbD hSpiRdm = false ∧ d.pend.getLsbD hSpiRadioDisc = false ∧ d.cons = 0

/-! ### Discovery -/

/-- The open ranges on the stack, the top first (R51). -/
def liveStack (d : Disc) : List UidRange := (d.stk.take d.sp).reverse

/-- The current range is being probed. -/
def probing : Ds → Bool
  | .branchTx | .branchWait | .branchRx => true
  | .idle | .pop | .muteTx | .muteWait | .muteRx | .unmuteTx => false

/-- The ranges still to be decided: the range being probed, if any, and the stack. -/
def openRanges (d : Disc) : List UidRange :=
  if probing d.ds then ⟨d.curLo, d.curHi⟩ :: liveStack d else liveStack d

/-- A range of `2 ^ k` UIDs (R247). -/
def HasSize (r : UidRange) (k : Nat) : Prop := r.lo.toNat + 2 ^ k = r.hi.toNat + 1

/-- The sizes of the open ranges, as powers of two, the top first: below the top they strictly rise, the top two may
be equal, and only the whole space, alone, has size 2 ^ 48 (R262). -/
def SizesDisciplined (ks : List Nat) : Prop :=
  ks.tail.Pairwise (· < ·) ∧ (∀ k ∈ ks.head?, ∀ j ∈ ks.tail, k ≤ j) ∧ (∀ k ∈ ks, k ≤ 48)
    ∧ (2 ≤ ks.length → ∀ k ∈ ks, k ≤ 47)

/-- The invariant of the search (R51, R247, R262): the slots are all there, the open ranges are disjoint, and their
sizes are disciplined. -/
def SearchSound (s : State) : Prop :=
  s.de.stk.length = s.cfg.stackCap ∧ s.de.sp ≤ s.cfg.stackCap
    ∧ (openRanges s.de).Pairwise (fun r q => r.hi.toNat < q.lo.toNat)
    ∧ ∃ ks, List.Forall₂ HasSize (openRanges s.de) ks ∧ SizesDisciplined ks

/-- The DE is muting the UID it isolated. -/
def muting : Ds → Bool
  | .muteTx | .muteWait | .muteRx => true
  | .idle | .pop | .branchTx | .branchWait | .branchRx | .unmuteTx => false

/-- A list of results of a capacity (R52, R260): no duplicates, no more than fit. -/
def ListSound (cap : Option Nat) (l : List Uid) : Prop := l.Nodup ∧ ∀ c ∈ cap, l.length ≤ c

/-- The results of discovery are sound (R52, R245, R246, R260, R261): lists without duplicates and within their
capacities, no reserved UID confirmed or about to be, the repeats on a leaf bounded, and `DISC_STATUS` says
whether a pass is running. -/
structure ResultsSound (c : Cfg) (d : Disc) : Prop where
  confirmed : ListSound c.confCap d.conf
  abandoned : ListSound c.abndCap d.abnd
  confirmed_real : ∀ u ∈ d.conf, reservedUid u = false
  isolated_real : muting d.ds = true → reservedUid d.isoUid = false
  retry_bounded : d.retry ≤ c.leafRetryMax
  running_iff : d.discStatus = .running ↔ d.ds ≠ .idle

/-! ### Transactions -/

/-- A read of a register the table lets be read, of the table's length, padded (R63, R97). -/
def readShape (c : Cfg) (a : Byte) (rest : List Byte) : Bool :=
  match lookup c a with
  | some row => row.readable && decide (rest = padding row.length)
  | none => false

/-- A write of a register the table lets be written, of the table's length (R64, R97). -/
def writeShape (c : Cfg) (a : Byte) (rest : List Byte) : Bool :=
  match lookup c a with
  | some row => row.writable && decide (rest.length = row.length)
  | none => false

/-- What the SSPE may send (R90, R92, R96, R97): an assigned command byte, and after it the padding or the data of
exactly the length the command byte stands for. -/
def txShape (c : Cfg) : List Byte → Bool
  | [] => false
  | cmd :: rest =>
    match decodeBus cmd with
    | .ok (.busRdreg a) => readShape c (a.zeroExtend 8) rest
    | .ok (.busWrreg a) => writeShape c (a.zeroExtend 8) rest
    | .ok .busRddmx => decide (rest = padding c.lenRddmx)
    | .ok .busRdasc => decide (rest = padding c.lenRdasc)
    | .ok .busRdrdm => decide (rest = padding c.lenRdrdm)
    | .ok .busWrdmx => decide (rest.length = c.lenWrdmx)
    | .ok .busWrrdm => decide (rest.length = c.lenWrrdm)
    | .ok .busFwblk1 => decide (rest.length = c.lenFwblk1)
    | .ok .busFwblk2 => decide (rest.length = c.lenFwblk2)
    | .ok .busNop => decide (rest = [])
    | _ => false

/-- Every transaction on record was one the SSPE may send, under its own chip-select line. -/
def BusSound (s : State) : Prop := ∀ x ∈ s.env.bus, x.cs = s.cfg.csId ∧ txShape s.cfg x.tx = true

/-! ### What one operation does, in the terms of the claims -/

/-- The environment after one transaction that sends `tx` (R61, R80). -/
def envAfter (tx : List Byte) (s : State) : Env :=
  { s.env with
    bus := { cs := s.cfg.csId, tx := tx, rx := busReply s tx } :: s.env.bus
    trx := (s.env.trx.reply s.cfg s.env.bus.length tx).2 }

/-- `FIRST_RX` after one transaction that sends `tx` (R62). -/
def firstRxAfter (tx : List Byte) (s : State) : Byte := (busReply s tx).headD s.res.firstRx

/-- `m'` is the byte memory `m` of `cap` bytes with the bytes `d` stored from address 0 on, as far as it has them, and
every other byte as it was. -/
def StoresBytes (cap : Nat) (m m' : Memory) (d : List Byte) : Prop :=
  ∀ i, m'.read i = if i < d.length ∧ i < cap then byteAt d i else m.read i

/-- The next act of the script, with the acts after it. -/
def NextAct (a : Act) (rest : List Act) (s : State) : Prop := s.env.script = a :: rest

/-- The frame of a discovery request in the padded RDM write window (R236, R237, R239). -/
def requestWindow (s : State) (dest : Uid) (pid : Half) (pd : List Byte) : List Byte :=
  let frame := encodeFrame
    { dest := dest, src := s.cfg.ownUid, tn := s.tn, prt := s.cfg.portId, mc := 0, sub := 0, cc := 0x10, pid := pid } pd
  frame ++ padding (s.cfg.lenWrrdm - frame.length)

/-- A list of results after a UID is recorded in it (R260): unchanged if it is there or the list is full. -/
def listAfter (cap : Option Nat) (l : List Uid) (u : Uid) : List Uid :=
  if u ∈ l ∨ cap = some l.length then l else l ++ [u]

/-- `DISC_OVF` after a UID is recorded in a list (R260). -/
def ovfAfter (cap : Option Nat) (l : List Uid) (u : Uid) (ovf : Bool) : Bool :=
  ovf || (decide (u ∉ l) && decide (cap = some l.length))

/-- What the answer `out` to a collision in the state `r` is (R246): a range that is no leaf is split, the lower half on
top, a leaf is probed again until it was repeated as often as it may be, and is then abandoned. Nothing else of `r` changes. -/
def CollisionAnswer (r : State) (out : Result) : Prop :=
  (r.de.curLo ≠ r.de.curHi → r.de.sp + 2 ≤ r.cfg.stackCap → out = .next { r with
    de := { r.de with
      stk := (r.de.stk.set r.de.sp ⟨mid r.de.curLo r.de.curHi + 1, r.de.curHi⟩).set (r.de.sp + 1) ⟨r.de.curLo, mid r.de.curLo r.de.curHi⟩
      sp := r.de.sp + 2
      ds := .pop } })
  ∧ (r.de.curLo = r.de.curHi → r.de.retry < r.cfg.leafRetryMax → out = .next { r with
    de := { r.de with retry := r.de.retry + 1, ds := .branchTx } })
  ∧ (r.de.curLo = r.de.curHi → r.cfg.leafRetryMax ≤ r.de.retry → out = .next { r with
    de := { r.de with
      abnd := listAfter r.cfg.abndCap r.de.abnd r.de.curLo
      discOvf := ovfAfter r.cfg.abndCap r.de.abnd r.de.curLo r.de.discOvf
      ds := .pop } })

/-! ### The whole -/

/-- The invariant of the machine. -/
structure Sound (s : State) : Prop where
  config   : s.cfg.wf = true
  modes    : ModesExclusive s
  buffers  : BuffersSound s
  dispatch : DispatchSound s.cfg s.irqd
  search   : SearchSound s
  results  : ResultsSound s.cfg s.de
  bus      : BusSound s

end Sys2Proof.Machine
end

