-- ==== Sys2Proof/Certificates/Slice0/Obligations.lean ====
section
/-! DEFINITION. The statements for the provers, from the numbered rules of spec/. Witnesses of their hypotheses stand in Sys2Proof/Tests/Slice0.lean. -/

open Sys2Proof Sys2Proof.Machine

/-! ## Encoding -/

/-- Decoding the encoding of any instruction gives it back, with every register address at every value (R92, R95, R100, R122). -/
def Obligations.DecodeOfEncode : Prop :=
  ∀ i : Instr, decode (encode i) = .ok i

/-- Every word that decodes at all is the encoding of what it decodes to: no two instructions share a word of one format (R95, R100, R122). -/
def Obligations.EncodeOfDecode : Prop :=
  ∀ (w : CodeWord) (i : Instr), decode w = .ok i → encode i = w

/-- The command bytes that decode to nothing are exactly the 120 unassigned ones (R96). -/
def Obligations.UnassignedCommandBytes : Prop :=
  (∀ c : BitVec 8, decodeBus c = .error (.unassignedCommandByte c) ↔
    (c = 0x80 ∨ (0x84 ≤ c ∧ c ≤ 0x8D) ∨ c = 0x90 ∨ (0x93 ≤ c ∧ c ≤ 0xFE)))
  ∧ ((List.range 256).filter fun n =>
      decide (decodeBus (BitVec.ofNat 8 n) = .error (.unassignedCommandByte (BitVec.ofNat 8 n)))).length = 120

/-- A few words written out from the tables of R92, R100 and R122 decode to the instructions they stand for, and two that stand for nothing are rejected by name (R96, R102). -/
def Obligations.SampleWordsDecode : Prop :=
  decode (.bus 0b00000011) = .ok (.busRdreg 3) ∧ decode (.bus 0b01000011) = .ok (.busWrreg 3)
  ∧ decode (.bus 0b01110100) = .ok (.busWrreg 0x34) ∧ decode (.bus 0b10000011) = .ok .busRdrdm
  ∧ decode (.bus 0b10010010) = .ok .busWrrdm ∧ decode (.bus 0b11111111) = .ok .busNop
  ∧ decode (.host 0b00001101) = .ok .rdmdec ∧ decode (.host 0b00010001) = .ok .disccancel
  ∧ decode (.rdm 0b000100000000000000000010) = .ok .discMute
  ∧ decode (.bus 0x80) = .error (.unassignedCommandByte 0x80)
  ∧ decode (.host 0x12) = .error (.unassignedSelector 0x12)

/-! ## The step -/

/-- At a turn of the host port, scripted or by the default of log 8, the step executes exactly the offered operation that `HOP` selects; a value that selects nothing is dropped (R101, R102). The selectors are the configuration's (R8, log 3; of two operations with one selector the first is selected, log 30), and with those of R100 it is the operation that the opcode table gives. -/
def Obligations.StepRunsOfferedOperation : Prop :=
  ∀ s : State, s.cfg.wf = true → s.port.offered = true →
    (∀ (rest : List Act) (i : Instr), NextAct .port rest s → selected s.cfg.selectors s.port.hop = some i →
      step s = exec i { s with env := { s.env with script := rest } })
    ∧ (∀ i : Instr, s.env.script = [] → portReady s = true → selected s.cfg.selectors s.port.hop = some i → step s = exec i s)
    ∧ (∀ rest : List Act, NextAct .port rest s → selected s.cfg.selectors s.port.hop = none →
      step s = .next { s with port := { s.port with offered := false }, env := { s.env with script := rest } })
    ∧ (s.cfg.selectors = Cfg.ref.selectors →
      ∀ (h : Byte) (i : Instr), selected s.cfg.selectors h = some i ↔ decode (.host h) = .ok i)

/-- In the three sending states the DE's step executes the request of that state (R231, R240, R248, R251). -/
def Obligations.StepRunsDiscoveryRequest : Prop :=
  ∀ (s : State) (rest : List Act), s.cfg.wf = true → s.irqd.iq = .idle → NextAct .seq rest s →
    (s.de.ds = .branchTx → step s = exec .discUniqueBranch { s with env := { s.env with script := rest } })
    ∧ (s.de.ds = .muteTx → step s = exec .discMute { s with env := { s.env with script := rest } })
    ∧ (s.de.ds = .unmuteTx → step s = exec .discUnMute { s with env := { s.env with script := rest } })

/-- A step refuses exactly the configurations that break one of R9 (a) to (h) or the types of R8 (a window of no bytes, a register length beyond `u32`), whatever else the state is, and for no other reason does it refuse anything. -/
def Obligations.IllFormedConfigurationRefused : Prop :=
  ∀ s : State,
    ((¬ (s.cfg.regtab.map (·.address)).Nodup ∨ (∃ r ∈ s.cfg.regtab, 0x3F < r.address.toNat)
      ∨ (∃ r ∈ s.cfg.regtab, r.length = 0 ∨ s.cfg.bufCap < r.length)
      ∨ s.cfg.irqFlagsAddr = s.cfg.extIrqFlagsAddr
      ∨ readWrite s.cfg s.cfg.irqFlagsAddr = false ∨ readWrite s.cfg s.cfg.extIrqFlagsAddr = false
      ∨ s.cfg.bDmxChanged = s.cfg.bRfLink ∨ s.cfg.bDmxChanged = s.cfg.bExtended ∨ s.cfg.bRfLink = s.cfg.bExtended
      ∨ s.cfg.bSpiRdm = s.cfg.bSpiRadioDisc
      ∨ (∃ b ∈ [s.cfg.bDmxChanged, s.cfg.bRfLink, s.cfg.bExtended], 8 * lenIrqFlags s.cfg ≤ b)
      ∨ (∃ b ∈ [s.cfg.bSpiRdm, s.cfg.bSpiRadioDisc], 8 * lenExtIrqFlags s.cfg ≤ b)
      ∨ s.cfg.lenWrrdm < 38 ∨ s.cfg.lenRdrdm < 26 ∨ s.cfg.stackCap < 49
      ∨ s.cfg.ownUid = 0 ∨ s.cfg.ownUid = 0xFFFFFFFFFFFF
      ∨ (∃ n ∈ [s.cfg.lenRddmx, s.cfg.lenRdasc, s.cfg.lenRdrdm, s.cfg.lenWrdmx, s.cfg.lenWrrdm, s.cfg.lenFwblk1, s.cfg.lenFwblk2], n = 0)
      ∨ (∃ r ∈ s.cfg.regtab, 2 ^ 32 ≤ r.length)) ↔
        step s = .refused .illFormedConfig)
    ∧ ∀ r : Refusal, step s = .refused r → r = .illFormedConfig

/-! ## Register access layer -/

/-- RDREG in every accepted case (R131, R133): direction before length before the transaction; what each outcome writes, and that it writes nothing else. -/
def Obligations.RdregOutcomes : Prop :=
  ∀ s : State, BuffersSound s → AcceptsOrdinary s →
    let tx := s.port.a0 :: padding s.port.len.toNat
    ((lookup s.cfg s.port.a0 = none ∨ ∃ row, lookup s.cfg s.port.a0 = some row ∧ row.readable = false) →
      exec .rdreg s = .next { s with
        port := { s.port with offered := false }
        res := { s.res with status := .failed .accessDenied, errInfo := 0 } })
    ∧ (∀ row, lookup s.cfg s.port.a0 = some row → row.readable = true → s.port.len.toNat ≠ row.length →
      exec .rdreg s = .next { s with
        port := { s.port with offered := false }
        res := { s.res with status := .failed .lengthMismatch, errInfo := 0 } })
    ∧ (∀ row, lookup s.cfg s.port.a0 = some row → row.readable = true → s.port.len.toNat = row.length →
      ((busReply s tx).length ≠ row.length + 1 →
        exec .rdreg s = .next { s with
          port := { s.port with offered := false }
          env := envAfter tx s
          res := { s.res with firstRx := firstRxAfter tx s, status := .failed .lengthMismatch, errInfo := 0 } })
      ∧ ((busReply s tx).length = row.length + 1 →
        ∃ m, StoresBytes s.cfg.bufCap s.res.rbuf m ((busReply s tx).drop 1) ∧
          exec .rdreg s = .next { s with
            port := { s.port with offered := false }
            env := envAfter tx s
            res := { status := .ok, errInfo := 0, rlen := BitVec.ofNat 16 row.length, rbuf := m, firstRx := firstRxAfter tx s } }))

/-- WRREG in every accepted case (R132, R133): the bytes of `OBUF` go out unchanged after `0x40 | A0`; `RLEN` and `RBUF` are untouched. -/
def Obligations.WrregOutcomes : Prop :=
  ∀ s : State, AcceptsOrdinary s →
    let tx := (0x40 ||| s.port.a0) :: obufBytes s s.port.len.toNat
    ((lookup s.cfg s.port.a0 = none ∨ ∃ row, lookup s.cfg s.port.a0 = some row ∧ row.writable = false) →
      exec .wrreg s = .next { s with
        port := { s.port with offered := false }
        res := { s.res with status := .failed .accessDenied, errInfo := 0 } })
    ∧ (∀ row, lookup s.cfg s.port.a0 = some row → row.writable = true → s.port.len.toNat ≠ row.length →
      exec .wrreg s = .next { s with
        port := { s.port with offered := false }
        res := { s.res with status := .failed .lengthMismatch, errInfo := 0 } })
    ∧ (∀ row, lookup s.cfg s.port.a0 = some row → row.writable = true → s.port.len.toNat = row.length →
      exec .wrreg s = .next { s with
        port := { s.port with offered := false }
        env := envAfter tx s
        res := { s.res with firstRx := firstRxAfter tx s, status := .ok, errInfo := 0 } })

/-- The register command bytes (R92, R131, R132; log 11): the transaction has the table's length; an address with no row or the wrong direction is refused with AccessDenied and never sent (R97). A register of more than 65535 bytes leaves `RLEN` a free value (log 2). -/
def Obligations.RegisterCommandOutcomes : Prop :=
  ∀ (s : State) (a : BitVec 6), BuffersSound s → AcceptsOrdinary s →
    let rd := a.zeroExtend 8 :: padding (tableLength s.cfg (a.zeroExtend 8))
    let wr := (0x40 ||| a.zeroExtend 8) :: obufBytes s (tableLength s.cfg (a.zeroExtend 8))
    ((lookup s.cfg (a.zeroExtend 8) = none ∨ ∃ row, lookup s.cfg (a.zeroExtend 8) = some row ∧ row.readable = false) →
      exec (.busRdreg a) s = .next { s with
        port := { s.port with offered := false }
        res := { s.res with status := .failed .accessDenied, errInfo := 0 } })
    ∧ ((lookup s.cfg (a.zeroExtend 8) = none ∨ ∃ row, lookup s.cfg (a.zeroExtend 8) = some row ∧ row.writable = false) →
      exec (.busWrreg a) s = .next { s with
        port := { s.port with offered := false }
        res := { s.res with status := .failed .accessDenied, errInfo := 0 } })
    ∧ (∀ row, lookup s.cfg (a.zeroExtend 8) = some row → row.readable = true →
      ((busReply s rd).length ≠ row.length + 1 →
        exec (.busRdreg a) s = .next { s with
          port := { s.port with offered := false }
          env := envAfter rd s
          res := { s.res with firstRx := firstRxAfter rd s, status := .failed .lengthMismatch, errInfo := 0 } })
      ∧ ((busReply s rd).length = row.length + 1 →
        ∃ m, StoresBytes s.cfg.bufCap s.res.rbuf m ((busReply s rd).drop 1) ∧
          exec (.busRdreg a) s = .next { s with
            port := { s.port with offered := false }
            env := envAfter rd s
            res := { status := .ok, errInfo := 0, rlen := rlenOf row.length, rbuf := m, firstRx := firstRxAfter rd s } }))
    ∧ (∀ row, lookup s.cfg (a.zeroExtend 8) = some row → row.writable = true →
      exec (.busWrreg a) s = .next { s with
        port := { s.port with offered := false }
        env := envAfter wr s
        res := { s.res with firstRx := firstRxAfter wr s, status := .ok, errInfo := 0 } })

/-- NOP is the single byte 0xFF, and writes `FIRST_RX`, `STATUS` and `ERR_INFO` only (R134). -/
def Obligations.NopSendsOneByte : Prop :=
  ∀ s : State, AcceptsOrdinary s →
    exec .nop s = .next { s with
      port := { s.port with offered := false }
      env := envAfter [0xFF] s
      res := { s.res with firstRx := firstRxAfter [0xFF] s, status := .ok, errInfo := 0 } }

/-! ## Frame codec -/

/-- The three bulk reads (R65, R153 to R155): one padded transaction of the window's size; a wrong number of bytes is FrameLengthError with only `FIRST_RX` written. A window of more than 65535 bytes leaves `RLEN` a free value, and bytes beyond `RBUF` are not kept (log 2). -/
def Obligations.BulkReadOutcomes : Prop :=
  ∀ s : State, BuffersSound s → AcceptsOrdinary s →
    ∀ p ∈ [(Instr.rddmx, (0x81 : Byte), s.cfg.lenRddmx), (.rdasc, 0x82, s.cfg.lenRdasc), (.rdrdm, 0x83, s.cfg.lenRdrdm)],
      let tx := p.2.1 :: padding p.2.2
      ((busReply s tx).length ≠ p.2.2 + 1 →
        exec p.1 s = .next { s with
          port := { s.port with offered := false }
          env := envAfter tx s
          res := { s.res with firstRx := firstRxAfter tx s, status := .failed .frameLengthError, errInfo := 0 } })
      ∧ ((busReply s tx).length = p.2.2 + 1 →
        ∃ m, StoresBytes s.cfg.bufCap s.res.rbuf m ((busReply s tx).drop 1) ∧
          exec p.1 s = .next { s with
            port := { s.port with offered := false }
            env := envAfter tx s
            res := { status := .ok, errInfo := 0, rlen := rlenOf p.2.2, rbuf := m, firstRx := firstRxAfter tx s } })

/-- The bulk writes and the firmware blocks as operations (R24, R152, R156 to R159): a wrong `LEN`, or more bytes than `OBUF` has, is FrameLengthError with nothing on the bus; the right one sends the window unchanged. -/
def Obligations.BulkWriteOutcomes : Prop :=
  ∀ s : State, AcceptsOrdinary s →
    ∀ p ∈ [(Instr.wrdmx, (0x91 : Byte), s.cfg.lenWrdmx), (.wrrdm, 0x92, s.cfg.lenWrrdm),
           (.fwblk1, 0x8E, s.cfg.lenFwblk1), (.fwblk2, 0x8F, s.cfg.lenFwblk2)],
      let tx := p.2.1 :: obufBytes s p.2.2
      (s.port.len.toNat ≠ p.2.2 ∨ s.cfg.bufCap < p.2.2 →
        exec p.1 s = .next { s with
          port := { s.port with offered := false }
          res := { s.res with status := .failed .frameLengthError, errInfo := 0 } })
      ∧ (s.port.len.toNat = p.2.2 → p.2.2 ≤ s.cfg.bufCap →
        exec p.1 s = .next { s with
          port := { s.port with offered := false }
          env := envAfter tx s
          res := { s.res with firstRx := firstRxAfter tx s, status := .ok, errInfo := 0 } })

/-- The eight fixed command bytes (R92 to R94; the model's choice of log 11): each runs the read, the write or the no-op it stands for, with the number of bytes that the byte alone fixes; more bytes than `OBUF` has are FrameLengthError (R24). -/
def Obligations.FixedCommandOutcomes : Prop :=
  ∀ s : State, BuffersSound s → AcceptsOrdinary s →
    (∀ p ∈ [(Instr.busRddmx, (0x81 : Byte), s.cfg.lenRddmx), (.busRdasc, 0x82, s.cfg.lenRdasc), (.busRdrdm, 0x83, s.cfg.lenRdrdm)],
      let tx := p.2.1 :: padding p.2.2
      ((busReply s tx).length ≠ p.2.2 + 1 →
        exec p.1 s = .next { s with
          port := { s.port with offered := false }
          env := envAfter tx s
          res := { s.res with firstRx := firstRxAfter tx s, status := .failed .frameLengthError, errInfo := 0 } })
      ∧ ((busReply s tx).length = p.2.2 + 1 →
        ∃ m, StoresBytes s.cfg.bufCap s.res.rbuf m ((busReply s tx).drop 1) ∧
          exec p.1 s = .next { s with
            port := { s.port with offered := false }
            env := envAfter tx s
            res := { status := .ok, errInfo := 0, rlen := rlenOf p.2.2, rbuf := m, firstRx := firstRxAfter tx s } }))
    ∧ (∀ p ∈ [(Instr.busWrdmx, (0x91 : Byte), s.cfg.lenWrdmx), (.busWrrdm, 0x92, s.cfg.lenWrrdm),
              (.busFwblk1, 0x8E, s.cfg.lenFwblk1), (.busFwblk2, 0x8F, s.cfg.lenFwblk2)],
      let tx := p.2.1 :: obufBytes s p.2.2
      (s.cfg.bufCap < p.2.2 →
        exec p.1 s = .next { s with
          port := { s.port with offered := false }
          res := { s.res with status := .failed .frameLengthError, errInfo := 0 } })
      ∧ (p.2.2 ≤ s.cfg.bufCap →
        exec p.1 s = .next { s with
          port := { s.port with offered := false }
          env := envAfter tx s
          res := { s.res with firstRx := firstRxAfter tx s, status := .ok, errInfo := 0 } }))
    ∧ exec .busNop s = .next { s with
        port := { s.port with offered := false }
        env := envAfter [0xFF] s
        res := { s.res with firstRx := firstRxAfter [0xFF] s, status := .ok, errInfo := 0 } }

/-! ## RDM packet codec -/

/-- RDMENC (R24, R201, R204): more than 230 bytes, or more than `OBUF` has, is LengthMismatch and advances nothing; else the frame of the field registers, with the counter `TN` when `A0[0]` is 1. Bytes of the frame beyond `RBUF` are not kept (log 2). -/
def Obligations.RdmencOutcomes : Prop :=
  ∀ s : State, BuffersSound s → AcceptsOrdinary s →
    (230 < s.port.len.toNat ∨ s.cfg.bufCap < s.port.len.toNat →
      exec .rdmenc s = .next { s with
        port := { s.port with offered := false }
        res := { s.res with status := .failed .lengthMismatch, errInfo := 0 } })
    ∧ (s.port.len.toNat ≤ 230 → s.port.len.toNat ≤ s.cfg.bufCap →
      let p := s.port.len.toNat
      let auto := s.port.a0.getLsbD 0
      let tn := if auto then s.tn else s.f.tn
      let frame := encodeFrame
        { dest := s.f.dest, src := s.f.src, tn := tn, prt := s.f.portRt, mc := s.f.mc, sub := s.f.subdev, cc := s.f.cc, pid := s.f.pid }
        (obufBytes s p)
      ∃ m, StoresBytes s.cfg.bufCap s.res.rbuf m frame ∧
        exec .rdmenc s = .next { s with
          port := { s.port with offered := false }
          tn := if auto then s.tn + 1 else s.tn
          f := { s.f with tn := tn, ml := BitVec.ofNat 8 (24 + p), pdl := BitVec.ofNat 8 p, cksum := BitVec.ofNat 16 (be (slice frame (24 + p) 2)) }
          res := { s.res with status := .ok, errInfo := 0, rlen := BitVec.ofNat 16 (26 + p), rbuf := m } })

/-- RDMDEC (R210, R211, R216): a frame that does not parse, or a timer or NACK response without its argument, writes `STATUS` and `ERR_INFO` only; any other writes every result, and a NACK then surfaces as NackReason with its reason. -/
def Obligations.RdmdecOutcomes : Prop :=
  ∀ s : State, BuffersSound s → AcceptsOrdinary s →
    let f := obufBytes s s.port.len.toNat
    let failing := fun e : Failure => { s with
        port := { s.port with offered := false }
        res := { s.res with status := .failed e, errInfo := 0 } }
    (s.cfg.bufCap < s.port.len.toNat → exec .rdmdec s = .next (failing .lengthMismatch))
    ∧ (s.port.len.toNat ≤ s.cfg.bufCap →
      (∀ e, frameParse f = some e → exec .rdmdec s = .next (failing e))
      ∧ (frameParse f = none →
        (∀ e, kindOf s.cfg.rts (roleOf (messageOf f).cc) (messageOf f).prt (frameData f) = .error e →
          exec .rdmdec s = .next (failing e))
        ∧ (∀ kind arg, kindOf s.cfg.rts (roleOf (messageOf f).cc) (messageOf f).prt (frameData f) = .ok (kind, arg) →
          ∃ m, StoresBytes s.cfg.bufCap s.res.rbuf m (frameData f) ∧
            exec .rdmdec s = .next { s with
              port := { s.port with offered := false }
              f := frameFields f
              dec := { role := roleOf (messageOf f).cc, kind := kind, arg := arg }
              res := { s.res with
                status := if kind = .nackReason then .failed .nackReason else .ok
                errInfo := if kind = .nackReason then arg else 0
                rlen := (byteAt f 23).zeroExtend 16
                rbuf := m } })))

/-- The round trip of the codec (R217): any message with at most 230 bytes of parameter data encodes to a frame of 26 more bytes that parses, and whose fields are the message, its lengths, its data and its checksum (R206). Every field stands at its offset of R98. -/
def Obligations.FrameRoundTrip : Prop :=
  ∀ (m : Message) (pd : List Byte), pd.length ≤ 230 →
    let f := encodeFrame m pd
    let ck := checksum (f.take (24 + pd.length))
    f.length = 26 + pd.length
    ∧ frameParse f = none
    ∧ messageOf f = m
    ∧ frameData f = pd
    ∧ frameFields f =
      { ml := BitVec.ofNat 8 (24 + pd.length), dest := m.dest, src := m.src, tn := m.tn, portRt := m.prt, mc := m.mc,
        subdev := m.sub, cc := m.cc, pid := m.pid, pdl := BitVec.ofNat 8 pd.length, cksum := ck }
    ∧ slice f 0 3 = [0xCC, 0x01, BitVec.ofNat 8 (24 + pd.length)]
    ∧ slice f 3 6 = beBytes 6 m.dest.toNat ∧ slice f 9 6 = beBytes 6 m.src.toNat
    ∧ slice f 15 3 = [m.tn, m.prt, m.mc] ∧ slice f 18 2 = beBytes 2 m.sub.toNat ∧ slice f 20 1 = [m.cc]
    ∧ slice f 21 2 = beBytes 2 m.pid.toNat ∧ slice f 23 1 = [BitVec.ofNat 8 pd.length]
    ∧ slice f 24 pd.length = pd ∧ slice f (24 + pd.length) 2 = beBytes 2 ck.toNat

/-- What one changed byte does to a frame that parses (R218): it never parses again, and the failure is told by the offset. -/
def Obligations.SingleByteChangeDetected : Prop :=
  ∀ (f : List Byte) (i : Nat) (b : Byte), frameParse f = none → i < f.length → b ≠ byteAt f i →
    frameParse (f.set i b) =
      (if i = 0 ∨ i = 1 then some .badStartCode
       else if i = 2 ∨ i = 23 then some .lengthMismatch
       else some .checksumError)

/-- The checksum is the sum of all bytes modulo 65536 (R104), so a frame's never wraps: 254 bytes of at most 255 stay below it. -/
def Obligations.ChecksumIsByteSum : Prop :=
  ∀ bs : List Byte, (checksum bs).toNat = (bs.map (·.toNat)).sum % 65536
    ∧ (bs.length ≤ 254 → (checksum bs).toNat = (bs.map (·.toNat)).sum)

/-- The role by command class (R212) and the kind by response type, in R213's order, for every class, every numbering of the response types and all parameter data. -/
def Obligations.RoleAndKindTables : Prop :=
  (∀ cc : Byte, (roleOf cc = .request ↔ cc = 0x10 ∨ cc = 0x20 ∨ cc = 0x30)
    ∧ (roleOf cc = .response ↔ cc = 0x11 ∨ cc = 0x21 ∨ cc = 0x31)
    ∧ (roleOf cc = .unknown ↔ cc ∉ [(0x10 : Byte), 0x20, 0x30, 0x11, 0x21, 0x31]))
  ∧ ∀ (rt : ResponseTypes) (role : MsgRole) (prt : Byte) (pd : List Byte),
    (role ≠ .response → kindOf rt role prt pd = .ok (.none, 0))
    ∧ (prt = rt.ack → kindOf rt .response prt pd = .ok (.ack, 0))
    ∧ (prt ≠ rt.ack → prt = rt.ackOverflow → kindOf rt .response prt pd = .ok (.ackOverflow, 0))
    ∧ (prt ∉ [rt.ack, rt.ackOverflow] → prt = rt.ackTimer →
        (pd.length < 2 → kindOf rt .response prt pd = .error .lengthMismatch)
        ∧ (2 ≤ pd.length → kindOf rt .response prt pd = .ok (.ackTimer, byteAt pd 0 ++ byteAt pd 1)))
    ∧ (prt ∉ [rt.ack, rt.ackOverflow, rt.ackTimer] → prt = rt.nackReason →
        (pd.length < 2 → kindOf rt .response prt pd = .error .lengthMismatch)
        ∧ (2 ≤ pd.length → kindOf rt .response prt pd = .ok (.nackReason, byteAt pd 0 ++ byteAt pd 1)))
    ∧ (prt ∉ [rt.ack, rt.ackOverflow, rt.ackTimer, rt.nackReason] → kindOf rt .response prt pd = .ok (.unknown, 0))

/-- Big-endian byte order (R11, R69): `be` inverts `BE_n`, and `BE_n` of `be` gives `n` bytes back. -/
def Obligations.BigEndianInverse : Prop :=
  (∀ n v : Nat, v < 256 ^ n → (beBytes n v).length = n ∧ be (beBytes n v) = v)
  ∧ ∀ bs : List Byte, be bs < 256 ^ bs.length ∧ beBytes bs.length (be bs) = bs

/-! ## IRQ dispatcher -/

/-- POLL (R172): in NORMAL mode without `irq_pending` it completes and touches nothing else; with it, the flag and the working registers are cleared before the first read, and `STATUS` is not yet written. In any other mode it is not accepted. -/
def Obligations.PollOutcomes : Prop :=
  ∀ s : State,
    (InNormal s → s.irqd.irqPending = false →
      exec .poll s = .next { s with
        port := { s.port with offered := false }
        res := { s.res with status := .ok, errInfo := 0 } })
    ∧ (InNormal s → s.irqd.irqPending = true →
      exec .poll s = .next { s with
        port := { s.port with offered := false }
        irqd := { iq := .rdflags, irqPending := false, obsFlags := 0, obsExt := 0, extRead := false, pend := 0, cons := 0,
                  stale := false, hcall := 0 } })
    ∧ (¬ InNormal s → exec .poll s = .next s ∨ exec .poll s = .next { s with port := { s.port with offered := false } })

/-- HRET (R181): in a call-out the flag being called is consumed, handler 0 answers `stale`, and the pass goes back to `IQ_DISPATCH`; in any other state it is refused. -/
def Obligations.HretConsumesFlag : Prop :=
  ∀ s : State,
    (InCall s →
      ∃ cons, (∀ k < 4, cons.getLsbD k = (s.irqd.cons.getLsbD k || decide (k = s.irqd.hcall.toNat))) ∧
        exec .hret s = .next { s with
          port := { s.port with offered := false }
          irqd := { s.irqd with
            iq := .dispatch
            cons := cons
            stale := if s.irqd.hcall = 0 then s.port.a0.getLsbD 0 else s.irqd.stale }
          res := { s.res with status := .ok, errInfo := 0 } })
    ∧ (¬ InCall s → exec .hret s = .next { s with port := { s.port with offered := false } })

/-- State `IQ_RDFLAGS` (R173, R176): one read of `IRQ_FLAGS`; the flags observed become pending; `EXTENDED` decides the next state; a wrong number of bytes ends the pass with the flag re-armed. -/
def Obligations.IrqFlagsRead : Prop :=
  ∀ (s : State) (rest : List Act), s.cfg.wf = true → s.irqd.iq = .rdflags → NextAct .seq rest s →
    let s₀ := { s with env := { s.env with script := rest } }
    let tx := s.cfg.irqFlagsAddr :: padding (lenIrqFlags s.cfg)
    let obs := be ((busReply s tx).drop 1)
    ((busReply s tx).length ≠ lenIrqFlags s.cfg + 1 →
      step s = .next { s₀ with
        env := envAfter tx s₀
        irqd := { s.irqd with irqPending := true, iq := .idle }
        res := { s.res with firstRx := firstRxAfter tx s, status := .failed .lengthMismatch, errInfo := 0 } })
    ∧ ((busReply s tx).length = lenIrqFlags s.cfg + 1 →
      ∃ pend, pend.getLsbD 0 = obs.testBit s.cfg.bRfLink ∧ pend.getLsbD 1 = obs.testBit s.cfg.bDmxChanged
        ∧ pend.getLsbD 2 = s.irqd.pend.getLsbD 2 ∧ pend.getLsbD 3 = s.irqd.pend.getLsbD 3 ∧
        step s = .next { s₀ with
          env := envAfter tx s₀
          irqd := { s.irqd with obsFlags := obs, pend := pend, iq := if obs.testBit s.cfg.bExtended then .rdext else .dispatch }
          res := { s.res with firstRx := firstRxAfter tx s } })

/-- State `IQ_RDEXT` (R174, R176): one read of `EXT_IRQ_FLAGS`, then dispatch. -/
def Obligations.ExtFlagsRead : Prop :=
  ∀ (s : State) (rest : List Act), s.cfg.wf = true → s.irqd.iq = .rdext → NextAct .seq rest s →
    let s₀ := { s with env := { s.env with script := rest } }
    let tx := s.cfg.extIrqFlagsAddr :: padding (lenExtIrqFlags s.cfg)
    let obs := be ((busReply s tx).drop 1)
    ((busReply s tx).length ≠ lenExtIrqFlags s.cfg + 1 →
      step s = .next { s₀ with
        env := envAfter tx s₀
        irqd := { s.irqd with irqPending := true, iq := .idle }
        res := { s.res with firstRx := firstRxAfter tx s, status := .failed .lengthMismatch, errInfo := 0 } })
    ∧ ((busReply s tx).length = lenExtIrqFlags s.cfg + 1 →
      ∃ pend, pend.getLsbD 2 = obs.testBit s.cfg.bSpiRdm ∧ pend.getLsbD 3 = obs.testBit s.cfg.bSpiRadioDisc
        ∧ pend.getLsbD 0 = s.irqd.pend.getLsbD 0 ∧ pend.getLsbD 1 = s.irqd.pend.getLsbD 1 ∧
        step s = .next { s₀ with
          env := envAfter tx s₀
          irqd := { s.irqd with obsExt := obs, extRead := true, pend := pend, iq := .dispatch }
          res := { s.res with firstRx := firstRxAfter tx s } })

/-- State `IQ_DISPATCH` (R177 to R179): the least pending, unconsumed handler is called, but after a stale link only handler 0; with none left the write-back begins. -/
def Obligations.DispatchCallsLeastEligible : Prop :=
  ∀ (s : State) (rest : List Act), s.cfg.wf = true → s.irqd.iq = .dispatch → NextAct .seq rest s →
    let s₀ := { s with env := { s.env with script := rest } }
    let ready := fun k : Nat =>
      s.irqd.pend.getLsbD k = true ∧ s.irqd.cons.getLsbD k = false ∧ (s.irqd.stale = false ∨ k = 0)
    (∀ k : BitVec 2, ready k.toNat → (∀ j < k.toNat, ¬ ready j) →
      step s = .next { s₀ with irqd := { s.irqd with hcall := k, iq := .call } })
    ∧ ((∀ k < 4, ¬ ready k) → step s = .next { s₀ with irqd := { s.irqd with iq := .wbext } })

/-- The write-backs and the end of a pass (R183 to R185, R188): the extended register before `IRQ_FLAGS`, a zero write skipped, the re-arm when an observed flag is unconsumed, and POLL completes. -/
def Obligations.WriteBackAndEnd : Prop :=
  ∀ (s : State) (rest : List Act), s.cfg.wf = true → NextAct .seq rest s →
    let s₀ := { s with env := { s.env with script := rest } }
    let txe := (0x40 ||| s.cfg.extIrqFlagsAddr) :: beBytes (lenExtIrqFlags s.cfg) (wbExt s.cfg s.irqd)
    let txf := (0x40 ||| s.cfg.irqFlagsAddr) :: beBytes (lenIrqFlags s.cfg) (wbFlags s.cfg s.irqd)
    let ended := { s.irqd with
      iq := .idle
      irqPending := s.irqd.irqPending || decide (s.irqd.pend &&& ~~~s.irqd.cons ≠ 0) }
    (s.irqd.iq = .wbext →
      (wbExt s.cfg s.irqd = 0 → step s = .next { s₀ with irqd := { s.irqd with iq := .wbflags } })
      ∧ (wbExt s.cfg s.irqd ≠ 0 → step s = .next { s₀ with
          env := envAfter txe s₀
          irqd := { s.irqd with iq := .wbflags }
          res := { s.res with firstRx := firstRxAfter txe s } }))
    ∧ (s.irqd.iq = .wbflags →
      (wbFlags s.cfg s.irqd = 0 → step s = .next { s₀ with
          irqd := ended
          res := { s.res with status := .ok, errInfo := 0 } })
      ∧ (wbFlags s.cfg s.irqd ≠ 0 → step s = .next { s₀ with
          env := envAfter txf s₀
          irqd := ended
          res := { s.res with firstRx := firstRxAfter txf s, status := .ok, errInfo := 0 } }))

/-- The values written back (R185): a 1 exactly at the flags consumed, and at `EXTENDED` exactly when the extended register was read and none of its flags is left. In every state whose working registers are sound each 1 is at a bit observed set in this pass, so it is never a blind all-ones write (R186). -/
def Obligations.WriteBackValues : Prop :=
  ∀ (c : Cfg) (d : Irqd),
    (∀ b, (wbExt c d).testBit b = true ↔ (d.cons.getLsbD 2 = true ∧ b = c.bSpiRdm) ∨ (d.cons.getLsbD 3 = true ∧ b = c.bSpiRadioDisc))
    ∧ (∀ b, (wbFlags c d).testBit b = true ↔
        (d.cons.getLsbD 0 = true ∧ b = c.bRfLink) ∨ (d.cons.getLsbD 1 = true ∧ b = c.bDmxChanged)
        ∨ (d.extRead = true ∧ (d.pend.getLsbD 2 = true → d.cons.getLsbD 2 = true)
            ∧ (d.pend.getLsbD 3 = true → d.cons.getLsbD 3 = true) ∧ b = c.bExtended))
    ∧ (DispatchSound c d →
        (∀ b, (wbFlags c d).testBit b = true → d.obsFlags.testBit b = true)
        ∧ (∀ b, (wbExt c d).testBit b = true → d.obsExt.testBit b = true)
        ∧ (d.extRead = false → wbExt c d = 0))

/-- `irq_assert` (R290): it sets `irq_pending` if a handle exists, and does nothing else, in any mode. -/
def Obligations.IrqAssertEffect : Prop :=
  ∀ (s : State) (rest : List Act), s.cfg.wf = true → NextAct .irqAssert rest s →
    step s = .next { s with
      irqd := { s.irqd with irqPending := s.irqd.irqPending || s.attached }
      env := { s.env with script := rest } }

/-! ## Lifecycle, acceptance -/

/-- ATTACH (R322): without a handle or in NORMAL mode every register with a reset value goes back to it and `attached` is set, while buffers, fields and `FIRST_RX` stay; in any other mode it is not accepted. -/
def Obligations.AttachReinitialises : Prop :=
  ∀ s : State,
    (s.attached = false ∨ InNormal s →
      exec .attach s = .next { s with
        attached := true
        port := { s.port with offered := false }
        tn := 0
        irqd := { iq := .idle, irqPending := false, obsFlags := 0, obsExt := 0, extRead := false, pend := 0, cons := 0,
                  stale := false, hcall := 0 }
        de := { s.de with ds := .idle, sp := 0, retry := 0, conf := [], abnd := [], discOvf := false, unmuteAtEnd := false,
                          cancelReq := false, cancelling := false, discStatus := .none, lastEv := none }
        res := { s.res with status := .ok, errInfo := 0, rlen := 0 }
        dec := { role := .none, kind := .none, arg := 0 } })
    ∧ (¬ (s.attached = false ∨ InNormal s) →
      exec .attach s = .next s ∨ exec .attach s = .next { s with port := { s.port with offered := false } })

/-- DETACH (R323): in NORMAL mode the handle and the pending flag go and all else stays; in DISCOVERY mode it stays requested and asks the pass to unwind; in a call-out it is dropped. -/
def Obligations.DetachOutcomes : Prop :=
  ∀ s : State,
    (InNormal s → exec .detach s = .next { s with
      attached := false
      port := { s.port with offered := false }
      irqd := { s.irqd with irqPending := false }
      res := { s.res with status := .ok, errInfo := 0 } })
    ∧ (InDiscovery s → exec .detach s = .next { s with de := { s.de with cancelReq := true } })
    ∧ (InCall s → exec .detach s = .next { s with port := { s.port with offered := false } })

/-- Without a handle every operation but ATTACH is dropped and changes nothing (R21, R300). -/
def Obligations.DetachedRefuses : Prop :=
  ∀ (s : State) (h : BitVec 8) (i : Instr), decode (.host h) = .ok i → i ≠ .attach → s.attached = false →
    exec i s = .next { s with port := { s.port with offered := false } }

/-- During a discovery pass the DE alone drives the bus (R81, R300, R301): every host operation but DISCCANCEL, DETACH and HRET is held unchanged, HRET is dropped, and none of the eighteen makes a transaction. -/
def Obligations.DiscoveryOwnsTheBus : Prop :=
  ∀ (s : State) (h : BitVec 8) (i : Instr), decode (.host h) = .ok i → InDiscovery s →
    (i ≠ .disccancel → i ≠ .detach → i ≠ .hret → exec i s = .next s)
    ∧ (i = .hret → exec i s = .next { s with port := { s.port with offered := false } })
    ∧ ∃ t, exec i s = .next t ∧ t.env = s.env ∧ t.de.ds = s.de.ds

/-- In a call-out POLL, DISCSTART, ATTACH and DETACH are dropped and change nothing: no re-entrant dispatch. While the IRQD steps by itself every host operation but HRET is held, and HRET is dropped (R182, R300). -/
def Obligations.DispatchGatesOperations : Prop :=
  (∀ s : State, InCall s → ∀ i ∈ [Instr.poll, .discstart, .attach, .detach],
    exec i s = .next { s with port := { s.port with offered := false } })
  ∧ ∀ (s : State) (h : BitVec 8) (i : Instr), decode (.host h) = .ok i → InStepping s →
    exec i s = if i = .hret then .next { s with port := { s.port with offered := false } } else .next s

/-- An external reset (R320, R58; log 4, 5, 17): from any state, in the middle of anything and with any configuration, every register is as right after power-on, and those that R58 gives a value have it; the configuration, the record of transactions and the transceiver stay. -/
def Obligations.ExternalResetEffect : Prop :=
  ∀ (s : State) (rest : List Act), s.cfg.wf = true → NextAct .reset rest s →
    ∃ t, step s = .next t
    ∧ t = State.resetWith s.cfg { s.env with script := rest }
    ∧ t.cfg = s.cfg ∧ t.env.bus = s.env.bus ∧ t.env.trx = s.env.trx ∧ t.env.script = rest
    ∧ t.attached = false ∧ t.res.status = .ok ∧ t.res.errInfo = 0 ∧ t.res.rlen = 0 ∧ t.tn = 0
    ∧ t.dec = { role := .none, kind := .none, arg := 0 }
    ∧ t.irqd = { iq := .idle, irqPending := false, obsFlags := 0, obsExt := 0, extRead := false, pend := 0, cons := 0,
                 stale := false, hcall := 0 }
    ∧ t.de.ds = .idle ∧ t.de.sp = 0 ∧ t.de.retry = 0 ∧ t.de.conf = [] ∧ t.de.abnd = [] ∧ t.de.discOvf = false
    ∧ t.de.unmuteAtEnd = false ∧ t.de.cancelReq = false ∧ t.de.cancelling = false ∧ t.de.discStatus = .none
    ∧ t.de.lastEv = none

/-! ## Discovery -/

/-- DISCSTART (R232): in NORMAL mode the whole UID space becomes the one open range, the results are cleared, `TN` is kept, and the operation completes at once; in any other mode it is not accepted. -/
def Obligations.DiscstartOpensWholeSpace : Prop :=
  ∀ s : State,
    (InNormal s → exec .discstart s = .next { s with
      port := { s.port with offered := false }
      de := { s.de with
        unmuteAtEnd := s.port.a0.getLsbD 0, cancelReq := false, cancelling := false, discOvf := false, conf := [], abnd := [],
        stk := s.de.stk.set 0 ⟨0x000000000000, 0xFFFFFFFFFFFF⟩, sp := 1, retry := 0, lastEv := none,
        discStatus := .running, ds := .pop }
      res := { s.res with status := .ok, errInfo := 0 } })
    ∧ (¬ InNormal s → exec .discstart s = .next s ∨ exec .discstart s = .next { s with port := { s.port with offered := false } })

/-- DISCCANCEL (R233): accepted in NORMAL mode, in a call-out and in DISCOVERY mode; it asks a running pass to unwind and does nothing else; a DETACH offered during a pass asks for the same. -/
def Obligations.DisccancelRequests : Prop :=
  ∀ s : State,
    (InNormal s ∨ InCall s ∨ InDiscovery s →
      exec .disccancel s = .next { s with
        port := { s.port with offered := false }
        de := { s.de with cancelReq := s.de.cancelReq || decide (s.de.ds ≠ .idle) }
        res := { s.res with status := .ok, errInfo := 0 } })
    ∧ (InDiscovery s → exec .detach s = .next { s with de := { s.de with cancelReq := true } })

/-- RDM.DISC_UNIQUE_BRANCH (R236 to R240, R253): the current range, lower bound first, broadcast with the current `TN`, which advances; a requested cancel comes before it. -/
def Obligations.BranchRequestSent : Prop :=
  ∀ s : State, BuffersSound s → s.de.ds = .branchTx →
    let win := requestWindow s 0xFFFFFFFFFFFF s.cfg.pids.discUniqueBranch (beBytes 6 s.de.curLo.toNat ++ beBytes 6 s.de.curHi.toNat)
    (s.de.cancelReq = true →
      exec .discUniqueBranch s = .next { s with de := { s.de with sp := 0, cancelling := true, ds := .unmuteTx } })
    ∧ (s.de.cancelReq = false → ∃ m, StoresBytes s.cfg.dbufCap s.de.dbuf m win ∧
      exec .discUniqueBranch s = .next { s with
        tn := s.tn + 1
        env := envAfter (0x92 :: win) s
        res := { s.res with firstRx := firstRxAfter (0x92 :: win) s }
        de := { s.de with dbuf := m, ds := .branchWait } })

/-- RDM.DISC_MUTE (R236 to R239, R248, R260): addressed to the isolated UID alone, which is recorded once the request is sent. -/
def Obligations.MuteRequestSentAndRecorded : Prop :=
  ∀ s : State, BuffersSound s → s.de.ds = .muteTx →
    let win := requestWindow s s.de.isoUid s.cfg.pids.discMute []
    (s.de.cancelReq = true →
      exec .discMute s = .next { s with de := { s.de with sp := 0, cancelling := true, ds := .unmuteTx } })
    ∧ (s.de.cancelReq = false → ∃ m, StoresBytes s.cfg.dbufCap s.de.dbuf m win ∧
      exec .discMute s = .next { s with
        tn := s.tn + 1
        env := envAfter (0x92 :: win) s
        res := { s.res with firstRx := firstRxAfter (0x92 :: win) s }
        de := { s.de with
          dbuf := m
          conf := listAfter s.cfg.confCap s.de.conf s.de.isoUid
          discOvf := ovfAfter s.cfg.confCap s.de.conf s.de.isoUid s.de.discOvf
          ds := .muteWait } })

/-- RDM.DISC_UN_MUTE and the end of a pass (R251, R252): the broadcast, then the results kept, or released after a cancel, `DISC_OVF` with them (R52; log 26). -/
def Obligations.UnmuteRequestEndsPass : Prop :=
  ∀ s : State, BuffersSound s → s.de.ds = .unmuteTx →
    let win := requestWindow s 0xFFFFFFFFFFFF s.cfg.pids.discUnMute []
    ∃ m, StoresBytes s.cfg.dbufCap s.de.dbuf m win ∧
      exec .discUnMute s = .next { s with
        tn := s.tn + 1
        env := envAfter (0x92 :: win) s
        res := { s.res with firstRx := firstRxAfter (0x92 :: win) s }
        de := { s.de with
          dbuf := m
          conf := if s.de.cancelling then [] else s.de.conf
          abnd := if s.de.cancelling then [] else s.de.abnd
          discOvf := if s.de.cancelling then false else s.de.discOvf
          discStatus := if s.de.cancelling then .cancelled else .done
          sp := 0, cancelling := false, cancelReq := false, ds := .idle } }

/-- State `DS_POP` (R235, with R252 and R253, and log 26 for `DISC_OVF`): cancel first; an empty stack ends the pass, with the un-mute if asked for; else the range pushed last is probed. -/
def Obligations.PopTakesLastRange : Prop :=
  ∀ (s : State) (rest : List Act), s.cfg.wf = true → s.irqd.iq = .idle → s.de.ds = .pop → NextAct .seq rest s →
    let s₀ := { s with env := { s.env with script := rest } }
    (s.de.cancelReq = true → step s = .next { s₀ with de := { s.de with sp := 0, cancelling := true, ds := .unmuteTx } })
    ∧ (s.de.cancelReq = false → s.de.sp = 0 → s.de.unmuteAtEnd = true →
      step s = .next { s₀ with de := { s.de with ds := .unmuteTx } })
    ∧ (s.de.cancelReq = false → s.de.sp = 0 → s.de.unmuteAtEnd = false →
      step s = .next { s₀ with de := { s.de with
        conf := if s.de.cancelling then [] else s.de.conf
        abnd := if s.de.cancelling then [] else s.de.abnd
        discOvf := if s.de.cancelling then false else s.de.discOvf
        discStatus := if s.de.cancelling then .cancelled else .done
        sp := 0, cancelling := false, cancelReq := false, ds := .idle } })
    ∧ (∀ r, s.de.cancelReq = false → 0 < s.de.sp → s.de.stk[s.de.sp - 1]? = some r →
      step s = .next { s₀ with de := { s.de with sp := s.de.sp - 1, curLo := r.lo, curHi := r.hi, retry := 0, ds := .branchTx } })

/-- A response event (R241, R242, R246, R261): in `DS_BRANCH_WAIT` a timeout discards the range, `AVAIL` goes on to the read, and a collision splits a range that is not a leaf, lower half on top, or repeats a leaf up to the bound and then abandons it. In any state but the two waits the event is dropped and changes nothing. -/
def Obligations.BranchEventOutcomes : Prop :=
  ∀ (s : State) (rest : List Act), s.cfg.wf = true →
    (s.de.ds = .branchWait → s.de.cancelReq = false →
      (NextAct (.event .timeout) rest s → step s = .next { s with
        de := { s.de with lastEv := some .timeout, ds := .pop }, env := { s.env with script := rest } })
      ∧ (NextAct (.event .avail) rest s → step s = .next { s with
        de := { s.de with lastEv := some .avail, ds := .branchRx }, env := { s.env with script := rest } })
      ∧ (NextAct (.event .collision) rest s → CollisionAnswer
          { s with de := { s.de with lastEv := some .collision }, env := { s.env with script := rest } } (step s)))
    ∧ (s.de.ds ≠ .branchWait → s.de.ds ≠ .muteWait → ∀ e, NextAct (.event e) rest s →
      step s = .next { s with env := { s.env with script := rest } })

/-- State `DS_BRANCH_RX` (R243 to R246, R259): a response whose slice parses and whose source is not reserved isolates that source, whatever class, parameter id, destination or transaction number it has. A window in which no frame parses, or only with a reserved source, counts as a collision with the window in `DBUF`, and a reply of the wrong length as one with `DBUF` as it was; no `STATUS` is written. -/
def Obligations.BranchResponseOutcomes : Prop :=
  ∀ (s : State) (rest : List Act), s.cfg.wf = true → BuffersSound s → s.irqd.iq = .idle → s.de.ds = .branchRx → NextAct .seq rest s →
    let tx := 0x83 :: padding s.cfg.lenRdrdm
    let window := (busReply s tx).drop 1
    let source := fun f : List Byte => (BitVec.ofNat 48 (be (slice f 9 6)) : Uid)
    let afterRead := { s with
      env := envAfter tx { s with env := { s.env with script := rest } }
      res := { s.res with firstRx := firstRxAfter tx s } }
    ((busReply s tx).length ≠ s.cfg.lenRdrdm + 1 → CollisionAnswer afterRead (step s))
    ∧ ((busReply s tx).length = s.cfg.lenRdrdm + 1 → ∃ m, StoresBytes s.cfg.dbufCap s.de.dbuf m window ∧
      (∀ f tail, window = f ++ tail → frameParse f = none → source f ≠ 0 → source f ≠ 0xFFFFFFFFFFFF →
        step s = .next { afterRead with de := { s.de with dbuf := m, isoUid := source f, ds := .muteTx } })
      ∧ ((∀ f tail, window = f ++ tail → frameParse f = none → source f = 0 ∨ source f = 0xFFFFFFFFFFFF) →
        CollisionAnswer { afterRead with de := { s.de with dbuf := m } } (step s)))

/-- The answer to a mute (R249, R250): `AVAIL` leads to one read of the window whose content changes nothing but `DBUF`; any other event goes on with the next range. -/
def Obligations.MuteAnswerDrained : Prop :=
  ∀ (s : State) (rest : List Act), s.cfg.wf = true → BuffersSound s → s.irqd.iq = .idle →
    (s.de.ds = .muteWait → s.de.cancelReq = false → ∀ e, NextAct (.event e) rest s →
      step s = .next { s with
        de := { s.de with lastEv := some e, ds := if e = .avail then .muteRx else .pop }, env := { s.env with script := rest } })
    ∧ (s.de.ds = .muteRx → NextAct .seq rest s →
      ∃ m, step s = .next { s with
        env := envAfter (0x83 :: padding s.cfg.lenRdrdm) { s with env := { s.env with script := rest } }
        res := { s.res with firstRx := firstRxAfter (0x83 :: padding s.cfg.lenRdrdm) s }
        de := { s.de with dbuf := m, ds := .pop } }
        ∧ ((busReply s (0x83 :: padding s.cfg.lenRdrdm)).length ≠ s.cfg.lenRdrdm + 1 → m = s.de.dbuf)
        ∧ ((busReply s (0x83 :: padding s.cfg.lenRdrdm)).length = s.cfg.lenRdrdm + 1 →
            StoresBytes s.cfg.dbufCap s.de.dbuf m ((busReply s (0x83 :: padding s.cfg.lenRdrdm)).drop 1)))

/-- A requested cancel ends a wait and has priority over an event delivered at the same moment (R234, R253): the event leaves no trace. -/
def Obligations.CancelEndsWaits : Prop :=
  ∀ (s : State) (rest : List Act) (a : Act), s.cfg.wf = true → s.irqd.iq = .idle → s.de.cancelReq = true →
    (s.de.ds = .branchWait ∨ s.de.ds = .muteWait) → (a = .seq ∨ ∃ e, a = .event e) → NextAct a rest s →
    step s = .next { s with
      de := { s.de with sp := 0, cancelling := true, ds := .unmuteTx }, env := { s.env with script := rest } }

/-- The midpoint (R247): it is the floor of the middle, no step of it wraps, and the two halves split the range: every UID of the range is in exactly one, and each is smaller than the range. -/
def Obligations.MidpointSplitsRange : Prop :=
  ∀ lo hi : Uid, lo < hi →
    (mid lo hi).toNat = lo.toNat + (hi.toNat - lo.toNat) / 2
    ∧ (mid lo hi + 1).toNat = (mid lo hi).toNat + 1
    ∧ lo ≤ mid lo hi ∧ mid lo hi < hi ∧ lo < mid lo hi + 1 ∧ mid lo hi + 1 ≤ hi
    ∧ ∀ u : Uid, (inRange u lo hi = true ↔ (inRange u lo (mid lo hi) = true ∨ inRange u (mid lo hi + 1) hi = true))
        ∧ ¬ (inRange u lo (mid lo hi) = true ∧ inRange u (mid lo hi + 1) hi = true)

/-! ## Invariants and rules of the whole machine -/

/-- Reset leaves a sound state with the values that R58 gives. -/
def Obligations.ResetIsSound : Prop :=
  Sound State.reset
  ∧ State.reset.attached = false ∧ State.reset.irqd.irqPending = false
  ∧ State.reset.irqd.iq = .idle ∧ State.reset.de.ds = .idle
  ∧ State.reset.res.status = .ok ∧ State.reset.res.errInfo = 0 ∧ State.reset.res.rlen = 0
  ∧ State.reset.dec = { role := .none, kind := .none, arg := 0 }
  ∧ State.reset.irqd.obsFlags = 0 ∧ State.reset.irqd.obsExt = 0 ∧ State.reset.irqd.extRead = false
  ∧ State.reset.irqd.pend = 0 ∧ State.reset.irqd.cons = 0 ∧ State.reset.irqd.stale = false ∧ State.reset.irqd.hcall = 0
  ∧ State.reset.de.sp = 0 ∧ State.reset.de.retry = 0 ∧ State.reset.de.conf = [] ∧ State.reset.de.abnd = []
  ∧ State.reset.de.discOvf = false ∧ State.reset.tn = 0 ∧ State.reset.de.unmuteAtEnd = false
  ∧ State.reset.de.cancelReq = false ∧ State.reset.de.cancelling = false
  ∧ State.reset.de.discStatus = .none ∧ State.reset.de.lastEv = none

/-- The byte memories keep their canonical form and their capacities through every step (log 5; R24, R25, R55). -/
def Obligations.StepKeepsBuffersSound : Prop :=
  ∀ s t : State, BuffersSound s → step s = .next t → BuffersSound t

/-- The modes stay exclusive, and without a handle nothing runs or is pending, through every step (R21 to R23, R301). -/
def Obligations.StepKeepsModesExclusive : Prop :=
  ∀ s t : State, ModesExclusive s → step s = .next t → ModesExclusive t

/-- The working registers of the dispatcher stay sound through every step (R33, R180, R186). -/
def Obligations.StepKeepsDispatchSound : Prop :=
  ∀ s t : State, DispatchSound s.cfg s.irqd → step s = .next t → DispatchSound t.cfg t.irqd

/-- The open ranges stay disjoint, their sizes powers of two and disciplined, through every step (R51, R247, R262). -/
def Obligations.StepKeepsSearchSound : Prop :=
  ∀ s t : State, SearchSound s → step s = .next t → SearchSound t

/-- The stack never holds more than 49 ranges, so no step from a state with a sound search overflows it (R262). -/
def Obligations.StackNeverOverflows : Prop :=
  ∀ s : State, SearchSound s → s.de.sp ≤ 49 ∧ step s ≠ .fault .stackOverflow

/-- The results of discovery stay sound through every step: no duplicates, no reserved UID confirmed, capacities and the retry bound kept (R50, R52, R246, R260). -/
def Obligations.StepKeepsResultsSound : Prop :=
  ∀ s t : State, ResultsSound s.cfg s.de → step s = .next t → ResultsSound t.cfg t.de

/-- Everything the SSPE ever sends is an assigned command byte, to a register the table allows, with padding or data of exactly its length (R68, R90, R96, R97). -/
def Obligations.StepKeepsBusSound : Prop :=
  ∀ s t : State, BusSound s → step s = .next t → BusSound t

/-- A step writes no configuration, and makes at most one transaction, put after all earlier ones (R8, R80). -/
def Obligations.StepAppendsAtMostOneTransaction : Prop :=
  ∀ s t : State, step s = .next t →
    t.cfg = s.cfg ∧ (t.env.bus = s.env.bus ∨ ∃ x, x.cs = s.cfg.csId ∧ t.env.bus = x :: s.env.bus)

/-- Only POLL, ATTACH and DETACH among the instructions write `irq_pending`, and they only clear it (R22). -/
def Obligations.IrqPendingWriters : Prop :=
  ∀ (i : Instr) (s t : State), exec i s = .next t →
    (t.irqd.irqPending = s.irqd.irqPending ∨ t.irqd.irqPending = false)
    ∧ (i ≠ .poll → i ≠ .attach → i ≠ .detach → t.irqd.irqPending = s.irqd.irqPending)

/-- Only the three requests, RDMENC with `AUTO_TN` and ATTACH write the transaction number, and the first four advance it by one (R53, R204, R238). -/
def Obligations.TransactionNumberWriters : Prop :=
  ∀ (i : Instr) (s t : State), exec i s = .next t →
    t.tn = s.tn
    ∨ (t.tn = s.tn + 1 ∧ (i = .discUniqueBranch ∨ i = .discMute ∨ i = .discUnMute ∨ (i = .rdmenc ∧ s.port.a0.getLsbD 0 = true)))
    ∨ (t.tn = 0 ∧ i = .attach)

/-- Which status each instruction can write (R286): a code outside its row is never written. The BUS rows have the statuses of the host operation they stand for, which is the model's choice (log 11), and R286 has no row for them. The failure of a POLL is written at the end of its pass by a step of the dispatcher, in IrqFlagsRead and ExtFlagsRead. -/
def Obligations.StatusesByOperation : Prop :=
  ∀ (i : Instr) (s t : State), exec i s = .next t → t.res.status = s.res.status ∨ t.res.status = .ok
    ∨ (t.res.status = .failed .accessDenied ∧ i ∈ [Instr.rdreg, .wrreg] )
    ∨ (t.res.status = .failed .accessDenied ∧ ∃ a, i = .busRdreg a ∨ i = .busWrreg a)
    ∨ (t.res.status = .failed .lengthMismatch ∧ (i ∈ [Instr.rdreg, .wrreg, .rdmenc, .rdmdec] ∨ ∃ a, i = .busRdreg a))
    ∨ (t.res.status = .failed .frameLengthError ∧
        i ∈ [Instr.rddmx, .rdasc, .rdrdm, .wrdmx, .wrrdm, .fwblk1, .fwblk2, .busRddmx, .busRdasc, .busRdrdm,
          .busWrdmx, .busWrrdm, .busFwblk1, .busFwblk2])
    ∨ (t.res.status = .failed .checksumError ∧ i = .rdmdec)
    ∨ (t.res.status = .failed .badStartCode ∧ i = .rdmdec)
    ∨ (t.res.status = .failed .nackReason ∧ i = .rdmdec)

/-- A step of the DE touches no host-port register but `FIRST_RX`, no field register and no dispatcher register, and completes no operation (R26, R55, R242, R252). -/
def Obligations.DiscoveryTouchesNoHostRegister : Prop :=
  ∀ (s t : State) (rest : List Act), s.irqd.iq = .idle → NextAct .seq rest s → step s = .next t →
    t.port = s.port ∧ t.f = s.f ∧ t.dec = s.dec ∧ t.irqd = s.irqd ∧ t.attached = s.attached
    ∧ t.res = { s.res with firstRx := t.res.firstRx }

/-- A failure transfers no control and leaves nothing half done (R281): every instruction answers a next state, and one that ends in a failure it did not start with has changed no sequencer, no handle, no operand and no transaction number, sent at most one transaction, and left the extra word 0 unless it is NackReason. -/
def Obligations.FailureKeepsSequencers : Prop :=
  ∀ (i : Instr) (s : State), ∃ t, exec i s = .next t ∧
    (s.res.status = .ok → ∀ e, t.res.status = .failed e →
      t.irqd = s.irqd ∧ t.de = s.de ∧ t.attached = s.attached ∧ t.tn = s.tn ∧ t.cfg = s.cfg
      ∧ t.port = { s.port with offered := false }
      ∧ (e ≠ .nackReason → t.f = s.f ∧ t.dec = s.dec ∧ t.res.errInfo = 0 ∧ t.res.rlen = s.res.rlen ∧ t.res.rbuf = s.res.rbuf)
      ∧ (t.env = s.env ∨ ∃ tx, t.env = envAfter tx s))
end

