-- ==== Sys2Proof/Laws/Config.lean ====
section
/-! SUPPORT. What a well-formed configuration gives (R9): the sizes, the register table, the flag registers. -/

namespace Sys2Proof.Machine

/-- A row found by `Lookup` is in the table and has the address asked for (R130). -/
theorem lookup_mem {c : Cfg} {a : Byte} {row : RegisterInfo} (h : lookup c a = some row) :
    row ∈ c.regtab ∧ row.address = a :=
  ⟨List.mem_of_find?_eq_some h, by simpa using List.find?_some h⟩

theorem tableLength_of_lookup {c : Cfg} {a : Byte} {row : RegisterInfo} (h : lookup c a = some row) :
    tableLength c a = row.length := by simp [tableLength, h]

/-- The parts of R9 that a well-formed configuration has. -/
theorem cfg_wf_parts {c : Cfg} (h : c.wf = true) :
    c.addressesUnique = true ∧ c.addressesInRange = true ∧ c.lengthsInRange = true ∧ c.flagRegistersUsable = true
      ∧ c.flagBitsUsable = true ∧ c.rdmWindowsLargeEnough = true ∧ c.stackLargeEnough = true ∧ c.ownUidUsable = true
      ∧ c.typesRespected = true := by
  simpa only [Cfg.wf, Bool.and_eq_true, and_assoc] using h

/-- R9 (f), (g): the sizes that a discovery pass needs. -/
theorem cfg_wf_discovery {c : Cfg} (h : c.wf = true) : 38 ≤ c.lenWrrdm ∧ 26 ≤ c.lenRdrdm ∧ 49 ≤ c.stackCap := by
  obtain ⟨-, -, -, -, -, h6, h7, -⟩ := cfg_wf_parts h
  simp only [Cfg.rdmWindowsLargeEnough, Cfg.stackLargeEnough, decide_eq_true_eq] at h6 h7
  exact ⟨h6.1, h6.2, h7⟩

/-- R9 (b), (c): the address and the length of a row of the table. -/
theorem cfg_wf_row {c : Cfg} (h : c.wf = true) {a : Byte} {row : RegisterInfo} (hr : lookup c a = some row) :
    a.toNat ≤ 0x3F ∧ 1 ≤ row.length ∧ row.length ≤ c.bufCap := by
  obtain ⟨-, h2, h3, -⟩ := cfg_wf_parts h
  obtain ⟨hm, rfl⟩ := lookup_mem hr
  simp only [Cfg.addressesInRange, Cfg.lengthsInRange, List.all_eq_true, decide_eq_true_eq] at h2 h3
  exact ⟨h2 row hm, h3 row hm⟩

/-- A register that may be read and written has a row that says so. -/
theorem readWrite_row {c : Cfg} {a : Byte} (h : readWrite c a = true) :
    ∃ row, lookup c a = some row ∧ row.readable = true ∧ row.writable = true := by
  unfold readWrite at h
  split at h
  · exact ⟨_, ‹_›, by simpa using h⟩
  · cases h

/-- R9 (d): the flag registers are two rows that may be read and written. -/
theorem cfg_wf_flagRegisters {c : Cfg} (h : c.wf = true) :
    c.irqFlagsAddr ≠ c.extIrqFlagsAddr
      ∧ (∃ row, lookup c c.irqFlagsAddr = some row ∧ row.readable = true ∧ row.writable = true)
      ∧ (∃ row, lookup c c.extIrqFlagsAddr = some row ∧ row.readable = true ∧ row.writable = true) := by
  obtain ⟨-, -, -, h4, -⟩ := cfg_wf_parts h
  simp only [Cfg.flagRegistersUsable, Bool.and_eq_true, bne_iff_ne, ne_eq] at h4
  exact ⟨h4.1.1, readWrite_row h4.1.2, readWrite_row h4.2⟩

/-- R9 (e): the flag bits are different and inside their registers. -/
theorem cfg_wf_flagBits {c : Cfg} (h : c.wf = true) :
    c.bDmxChanged ≠ c.bRfLink ∧ c.bDmxChanged ≠ c.bExtended ∧ c.bRfLink ≠ c.bExtended
      ∧ c.bDmxChanged < 8 * lenIrqFlags c ∧ c.bRfLink < 8 * lenIrqFlags c ∧ c.bExtended < 8 * lenIrqFlags c
      ∧ c.bSpiRdm ≠ c.bSpiRadioDisc
      ∧ c.bSpiRdm < 8 * lenExtIrqFlags c ∧ c.bSpiRadioDisc < 8 * lenExtIrqFlags c := by
  obtain ⟨-, -, -, -, h5, -⟩ := cfg_wf_parts h
  simpa only [Cfg.flagBitsUsable, decide_eq_true_eq] using h5

end Sys2Proof.Machine
end

