-- ==== Sys2Proof/Laws/Memory.lean ====
section
/-! SUPPORT. The laws of the byte memories: read after write, the canonical form, the bounds, and that equal contents are equal data. -/

namespace Sys2Proof.Machine

@[simp] theorem Memory.read_nil (a : Nat) : Memory.read [] a = Memory.unwritten := rfl

/-- A memory in canonical form, taken apart at its first cell. -/
theorem Memory.wf_cons {c : Host.Cell} {m : Memory} :
    Memory.wf (c :: m) ↔ (∀ d ∈ m, c.1 < d.1) ∧ c.2 ≠ Memory.unwritten ∧ Memory.wf m := by
  simp only [Memory.wf, List.pairwise_cons, List.mem_cons, forall_eq_or_imp]
  tauto

theorem Memory.wf_nil : Memory.wf [] := ⟨List.Pairwise.nil, by simp⟩

/-- A byte that no cell lists reads as the unwritten one. -/
theorem Memory.read_unlisted {m : Memory} {a : Nat} (h : ∀ c ∈ m, c.1 ≠ a) : m.read a = Memory.unwritten := by
  induction m with
  | nil => rfl
  | cons c m ih =>
    have hc := h c (by simp)
    simp only [Memory.read, if_neg (Ne.symm hc)]
    exact ih fun d hd => h d (by simp [hd])

/-- Every cell of a memory after a write is the written one or was there before. -/
theorem Memory.mem_write {m : Memory} {a : Nat} {v : Byte} {c : Host.Cell} (h : c ∈ m.write a v) :
    (c = (a, v) ∧ v ≠ Memory.unwritten) ∨ c ∈ m := by
  induction m with
  | nil =>
    simp only [Memory.write] at h
    split at h <;> simp_all
  | cons d m ih =>
    simp only [Memory.write] at h
    split at h
    · split at h <;> simp_all
    · split at h
      · split at h <;> simp_all
        tauto
      · rcases List.mem_cons.mp h with rfl | h
        · simp
        · rcases ih h with h | h <;> simp [h]

/-- A write keeps the canonical form. -/
theorem Memory.write_wf {m : Memory} (h : m.wf) (a : Nat) (v : Byte) : (m.write a v).wf := by
  induction m with
  | nil =>
    simp only [Memory.write]
    split
    · exact h
    · exact Memory.wf_cons.mpr ⟨by simp, by assumption, Memory.wf_nil⟩
  | cons c m ih =>
    obtain ⟨hlt, hne, hm⟩ := Memory.wf_cons.mp h
    simp only [Memory.write]
    split
    next hac =>
      split
      · exact h
      · refine Memory.wf_cons.mpr ⟨?_, by assumption, h⟩
        intro d hd
        rcases List.mem_cons.mp hd with rfl | hd
        · exact hac
        · exact Nat.lt_trans hac (hlt d hd)
    next hac =>
      split
      next heq =>
        subst heq
        split
        · exact hm
        · exact Memory.wf_cons.mpr ⟨hlt, by assumption, hm⟩
      next hne' =>
        refine Memory.wf_cons.mpr ⟨?_, hne, ih hm⟩
        intro d hd
        rcases Memory.mem_write hd with ⟨rfl, -⟩ | hd
        · simp only; omega
        · exact hlt d hd

/-- Read after write: the written byte at its address, every other byte as before. -/
theorem Memory.read_write {m : Memory} (h : m.wf) (a i : Nat) (v : Byte) :
    (m.write a v).read i = if i = a then v else m.read i := by
  induction m with
  | nil =>
    simp only [Memory.write]
    split
    next hv => simp [hv]
    · simp [Memory.read]
  | cons c m ih =>
    obtain ⟨hlt, hne, hm⟩ := Memory.wf_cons.mp h
    simp only [Memory.write]
    split
    next hac =>
      split
      next hv =>
        split
        next hia =>
          subst hia
          rw [hv]
          refine Memory.read_unlisted fun d hd => ?_
          rcases List.mem_cons.mp hd with rfl | hd
          · exact Nat.ne_of_gt hac
          · exact Nat.ne_of_gt (Nat.lt_trans hac (hlt d hd))
        · rfl
      · rfl
    next hac =>
      split
      next heq =>
        subst heq
        split
        next hv =>
          by_cases hi : i = c.1
          · subst hi
            rw [if_pos rfl, hv]
            exact Memory.read_unlisted fun d hd => Nat.ne_of_gt (hlt d hd)
          · rw [if_neg hi, Memory.read, if_neg hi]
        · simp only [Memory.read]
          split <;> rfl
      next hne' =>
        simp only [Memory.read, ih hm]
        split
        next hib => rw [if_neg]; omega
        · rfl

/-- The bound on the addresses listed is kept by a write below it. -/
theorem Memory.write_bounded {m : Memory} {n a : Nat} (h : ∀ c ∈ m, c.1 < n) (ha : a < n) (v : Byte) :
    ∀ c ∈ m.write a v, c.1 < n := by
  intro c hc
  rcases Memory.mem_write hc with ⟨rfl, -⟩ | hc
  · exact ha
  · exact h c hc

/-- A sequence of writes keeps the canonical form. -/
theorem Memory.writeBytes_wf {m : Memory} (h : m.wf) (a : Nat) (bs : List Byte) : (m.writeBytes a bs).wf := by
  induction bs generalizing a with
  | nil => exact h
  | cons b bs ih => exact Memory.write_wf (ih (a + 1)) a b

/-- A sequence of writes keeps the bound on the addresses, if it stays below it. -/
theorem Memory.writeBytes_bounded {m : Memory} {n a : Nat} {bs : List Byte} (h : ∀ c ∈ m, c.1 < n)
    (hn : a + bs.length ≤ n) : ∀ c ∈ m.writeBytes a bs, c.1 < n := by
  induction bs generalizing a with
  | nil => exact h
  | cons b bs ih =>
    simp only [List.length_cons] at hn
    exact Memory.write_bounded (ih (by omega)) (by omega) b

/-- Reading after a sequence of writes. -/
theorem Memory.read_writeBytes {m : Memory} (h : m.wf) (a i : Nat) (bs : List Byte) :
    (m.writeBytes a bs).read i = if a ≤ i ∧ i < a + bs.length then byteAt bs (i - a) else m.read i := by
  induction bs generalizing a with
  | nil =>
    rw [if_neg (by simp only [List.length_nil]; omega)]
    rfl
  | cons b bs ih =>
    simp only [Memory.writeBytes, Memory.read_write (Memory.writeBytes_wf h (a + 1) bs), ih, List.length_cons]
    by_cases hi : i = a
    · subst hi
      simp [byteAt]
    · by_cases h1 : a + 1 ≤ i ∧ i < a + 1 + bs.length
      · have h2 : a ≤ i ∧ i < a + (bs.length + 1) := by omega
        rw [if_neg hi, if_pos h1, if_pos h2]
        obtain ⟨k, rfl⟩ : ∃ k, i = a + 1 + k := ⟨i - (a + 1), by omega⟩
        have e1 : a + 1 + k - (a + 1) = k := by omega
        have e2 : a + 1 + k - a = k + 1 := by omega
        simp [byteAt, e1, e2]
      · rw [if_neg hi, if_neg h1, if_neg (by omega)]

/-- Writing from address 0 on stores the bytes and leaves the rest (R25). -/
theorem Memory.writeBytes_stores {m : Memory} (h : m.wf) (cap : Nat) (d : List Byte) :
    StoresBytes cap m (m.writeBytes 0 (d.take cap)) d := by
  intro i
  rw [Memory.read_writeBytes h]
  by_cases hc : i < cap <;> by_cases hd : i < d.length <;> simp [byteAt, List.getD, hc, hd]

/-- Bytes that fit are all stored. -/
theorem Memory.writeBytes_stores_all {m : Memory} (h : m.wf) {cap : Nat} {d : List Byte} (hl : d.length ≤ cap) :
    StoresBytes cap m (m.writeBytes 0 d) d := by
  have := Memory.writeBytes_stores h cap d
  rwa [List.take_of_length_le hl] at this

/-- Memories in canonical form with the same bytes are the same data. -/
theorem Memory.ext_of_read {m n : Memory} (hm : m.wf) (hn : n.wf) (h : ∀ a, m.read a = n.read a) : m = n := by
  induction m generalizing n with
  | nil =>
    cases n with
    | nil => rfl
    | cons d n =>
      have := h d.1
      simp [Memory.read] at this
      exact absurd this.symm (Memory.wf_cons.mp hn).2.1
  | cons c m ih =>
    obtain ⟨cl, cn, cm⟩ := Memory.wf_cons.mp hm
    cases n with
    | nil =>
      have := h c.1
      simp [Memory.read] at this
      exact absurd this cn
    | cons d n =>
      obtain ⟨dl, dn, dm⟩ := Memory.wf_cons.mp hn
      have key : c.1 = d.1 := by
        rcases Nat.lt_trichotomy c.1 d.1 with hlt | heq | hgt
        · have := h c.1
          rw [Memory.read_unlisted (m := d :: n)] at this
          · simp [Memory.read] at this
            exact absurd this cn
          · intro e he
            rcases List.mem_cons.mp he with rfl | he
            · omega
            · have := dl e he; omega
        · exact heq
        · have := h d.1
          rw [Memory.read_unlisted (m := c :: m)] at this
          · simp [Memory.read] at this
            exact absurd this.symm dn
          · intro e he
            rcases List.mem_cons.mp he with rfl | he
            · omega
            · have := cl e he; omega
      obtain ⟨a, v⟩ := c
      obtain ⟨b, w⟩ := d
      simp only at key
      subst key
      have hv : v = w := by simpa [Memory.read] using h a
      subst hv
      have hrest : m = n := by
        refine ih cm dm fun i => ?_
        by_cases hi : i = a
        · subst hi
          rw [Memory.read_unlisted fun e he => Nat.ne_of_gt (cl e he),
            Memory.read_unlisted fun e he => Nat.ne_of_gt (dl e he)]
        · simpa [Memory.read, hi] using h i
      rw [hrest]

@[simp] theorem Memory.readBytes_length (m : Memory) (a n : Nat) : (m.readBytes a n).length = n := by
  simp [Memory.readBytes]

/-- The byte at a position of the bytes read. -/
theorem Memory.byteAt_readBytes (m : Memory) (a n i : Nat) (h : i < n) : byteAt (m.readBytes a n) i = m.read (a + i) := by
  simp [Memory.readBytes, byteAt, List.getD, h]

@[simp] theorem padding_length (n : Nat) : (padding n).length = n := by simp [padding]

@[simp] theorem obufBytes_length (s : State) (n : Nat) : (obufBytes s n).length = n := by simp [obufBytes]

end Sys2Proof.Machine
end

