-- ==== Sys2Proof/Laws/State.lean ====
section
/-! SUPPORT. One lemma per field and update of the state, so that no proof unfolds a record update. -/

namespace Sys2Proof.Machine

/-! ### `complete` (R14) -/

@[simp] theorem complete_cfg (s : State) : (complete s).cfg = s.cfg := rfl
@[simp] theorem complete_attached (s : State) : (complete s).attached = s.attached := rfl
@[simp] theorem complete_port (s : State) : (complete s).port = s.port := rfl
@[simp] theorem complete_res (s : State) : (complete s).res = { s.res with status := .ok, errInfo := 0 } := rfl
@[simp] theorem complete_f (s : State) : (complete s).f = s.f := rfl
@[simp] theorem complete_dec (s : State) : (complete s).dec = s.dec := rfl
@[simp] theorem complete_tn (s : State) : (complete s).tn = s.tn := rfl
@[simp] theorem complete_irqd (s : State) : (complete s).irqd = s.irqd := rfl
@[simp] theorem complete_de (s : State) : (complete s).de = s.de := rfl
@[simp] theorem complete_env (s : State) : (complete s).env = s.env := rfl

/-! ### `raise` (R14, R281) -/

@[simp] theorem raise_cfg (e : Failure) (n : Half) (s : State) : (raise e n s).cfg = s.cfg := rfl
@[simp] theorem raise_attached (e : Failure) (n : Half) (s : State) : (raise e n s).attached = s.attached := rfl
@[simp] theorem raise_port (e : Failure) (n : Half) (s : State) : (raise e n s).port = s.port := rfl
@[simp] theorem raise_res (e : Failure) (n : Half) (s : State) : (raise e n s).res = { s.res with status := .failed e, errInfo := n } := rfl
@[simp] theorem raise_f (e : Failure) (n : Half) (s : State) : (raise e n s).f = s.f := rfl
@[simp] theorem raise_dec (e : Failure) (n : Half) (s : State) : (raise e n s).dec = s.dec := rfl
@[simp] theorem raise_tn (e : Failure) (n : Half) (s : State) : (raise e n s).tn = s.tn := rfl
@[simp] theorem raise_irqd (e : Failure) (n : Half) (s : State) : (raise e n s).irqd = s.irqd := rfl
@[simp] theorem raise_de (e : Failure) (n : Half) (s : State) : (raise e n s).de = s.de := rfl
@[simp] theorem raise_env (e : Failure) (n : Half) (s : State) : (raise e n s).env = s.env := rfl

/-! ### `busXfer` (R61, R62) -/

@[simp] theorem busXfer_cfg (tx : List Byte) (s : State) : (busXfer tx s).cfg = s.cfg := rfl
@[simp] theorem busXfer_attached (tx : List Byte) (s : State) : (busXfer tx s).attached = s.attached := rfl
@[simp] theorem busXfer_port (tx : List Byte) (s : State) : (busXfer tx s).port = s.port := rfl
@[simp] theorem busXfer_res (tx : List Byte) (s : State) : (busXfer tx s).res = { s.res with firstRx := firstRxAfter tx s } := rfl
@[simp] theorem busXfer_f (tx : List Byte) (s : State) : (busXfer tx s).f = s.f := rfl
@[simp] theorem busXfer_dec (tx : List Byte) (s : State) : (busXfer tx s).dec = s.dec := rfl
@[simp] theorem busXfer_tn (tx : List Byte) (s : State) : (busXfer tx s).tn = s.tn := rfl
@[simp] theorem busXfer_irqd (tx : List Byte) (s : State) : (busXfer tx s).irqd = s.irqd := rfl
@[simp] theorem busXfer_de (tx : List Byte) (s : State) : (busXfer tx s).de = s.de := rfl
@[simp] theorem busXfer_env (tx : List Byte) (s : State) : (busXfer tx s).env = envAfter tx s := rfl

/-! ### `dropOffer` (R300) -/

@[simp] theorem dropOffer_cfg (s : State) : (dropOffer s).cfg = s.cfg := rfl
@[simp] theorem dropOffer_attached (s : State) : (dropOffer s).attached = s.attached := rfl
@[simp] theorem dropOffer_port (s : State) : (dropOffer s).port = { s.port with offered := false } := rfl
@[simp] theorem dropOffer_res (s : State) : (dropOffer s).res = s.res := rfl
@[simp] theorem dropOffer_f (s : State) : (dropOffer s).f = s.f := rfl
@[simp] theorem dropOffer_dec (s : State) : (dropOffer s).dec = s.dec := rfl
@[simp] theorem dropOffer_tn (s : State) : (dropOffer s).tn = s.tn := rfl
@[simp] theorem dropOffer_irqd (s : State) : (dropOffer s).irqd = s.irqd := rfl
@[simp] theorem dropOffer_de (s : State) : (dropOffer s).de = s.de := rfl
@[simp] theorem dropOffer_env (s : State) : (dropOffer s).env = s.env := rfl

/-! ### `deliver` (R25) -/

@[simp] theorem deliver_cfg (d : List Byte) (s : State) : (deliver d s).cfg = s.cfg := rfl
@[simp] theorem deliver_attached (d : List Byte) (s : State) : (deliver d s).attached = s.attached := rfl
@[simp] theorem deliver_port (d : List Byte) (s : State) : (deliver d s).port = s.port := rfl
@[simp] theorem deliver_res (d : List Byte) (s : State) : (deliver d s).res =
    { s.res with rbuf := s.res.rbuf.writeBytes 0 (d.take s.cfg.bufCap), rlen := rlenOf d.length } := rfl
@[simp] theorem deliver_f (d : List Byte) (s : State) : (deliver d s).f = s.f := rfl
@[simp] theorem deliver_dec (d : List Byte) (s : State) : (deliver d s).dec = s.dec := rfl
@[simp] theorem deliver_tn (d : List Byte) (s : State) : (deliver d s).tn = s.tn := rfl
@[simp] theorem deliver_irqd (d : List Byte) (s : State) : (deliver d s).irqd = s.irqd := rfl
@[simp] theorem deliver_de (d : List Byte) (s : State) : (deliver d s).de = s.de := rfl
@[simp] theorem deliver_env (d : List Byte) (s : State) : (deliver d s).env = s.env := rfl

/-! ### `advanceTn` (R53) -/

@[simp] theorem advanceTn_cfg (s : State) : (advanceTn s).cfg = s.cfg := rfl
@[simp] theorem advanceTn_attached (s : State) : (advanceTn s).attached = s.attached := rfl
@[simp] theorem advanceTn_port (s : State) : (advanceTn s).port = s.port := rfl
@[simp] theorem advanceTn_res (s : State) : (advanceTn s).res = s.res := rfl
@[simp] theorem advanceTn_f (s : State) : (advanceTn s).f = s.f := rfl
@[simp] theorem advanceTn_dec (s : State) : (advanceTn s).dec = s.dec := rfl
@[simp] theorem advanceTn_tn (s : State) : (advanceTn s).tn = s.tn + 1 := rfl
@[simp] theorem advanceTn_irqd (s : State) : (advanceTn s).irqd = s.irqd := rfl
@[simp] theorem advanceTn_de (s : State) : (advanceTn s).de = s.de := rfl
@[simp] theorem advanceTn_env (s : State) : (advanceTn s).env = s.env := rfl

/-! ### `startPass` (R172) -/

@[simp] theorem startPass_cfg (s : State) : (startPass s).cfg = s.cfg := rfl
@[simp] theorem startPass_attached (s : State) : (startPass s).attached = s.attached := rfl
@[simp] theorem startPass_port (s : State) : (startPass s).port = s.port := rfl
@[simp] theorem startPass_res (s : State) : (startPass s).res = s.res := rfl
@[simp] theorem startPass_f (s : State) : (startPass s).f = s.f := rfl
@[simp] theorem startPass_dec (s : State) : (startPass s).dec = s.dec := rfl
@[simp] theorem startPass_tn (s : State) : (startPass s).tn = s.tn := rfl
@[simp] theorem startPass_irqd (s : State) : (startPass s).irqd =
    { iq := .rdflags, irqPending := false, obsFlags := 0, obsExt := 0, extRead := false, pend := 0, cons := 0, stale := false, hcall := 0 } := rfl
@[simp] theorem startPass_de (s : State) : (startPass s).de = s.de := rfl
@[simp] theorem startPass_env (s : State) : (startPass s).env = s.env := rfl

/-! ### `cancelPass` (R253) -/

@[simp] theorem cancelPass_cfg (s : State) : (cancelPass s).cfg = s.cfg := rfl
@[simp] theorem cancelPass_attached (s : State) : (cancelPass s).attached = s.attached := rfl
@[simp] theorem cancelPass_port (s : State) : (cancelPass s).port = s.port := rfl
@[simp] theorem cancelPass_res (s : State) : (cancelPass s).res = s.res := rfl
@[simp] theorem cancelPass_f (s : State) : (cancelPass s).f = s.f := rfl
@[simp] theorem cancelPass_dec (s : State) : (cancelPass s).dec = s.dec := rfl
@[simp] theorem cancelPass_tn (s : State) : (cancelPass s).tn = s.tn := rfl
@[simp] theorem cancelPass_irqd (s : State) : (cancelPass s).irqd = s.irqd := rfl
@[simp] theorem cancelPass_de (s : State) : (cancelPass s).de = { s.de with sp := 0, cancelling := true, ds := .unmuteTx } := rfl
@[simp] theorem cancelPass_env (s : State) : (cancelPass s).env = s.env := rfl

/-! ### `finishPass` (R252) -/

@[simp] theorem finishPass_cfg (s : State) : (finishPass s).cfg = s.cfg := rfl
@[simp] theorem finishPass_attached (s : State) : (finishPass s).attached = s.attached := rfl
@[simp] theorem finishPass_port (s : State) : (finishPass s).port = s.port := rfl
@[simp] theorem finishPass_res (s : State) : (finishPass s).res = s.res := rfl
@[simp] theorem finishPass_f (s : State) : (finishPass s).f = s.f := rfl
@[simp] theorem finishPass_dec (s : State) : (finishPass s).dec = s.dec := rfl
@[simp] theorem finishPass_tn (s : State) : (finishPass s).tn = s.tn := rfl
@[simp] theorem finishPass_irqd (s : State) : (finishPass s).irqd = s.irqd := rfl
@[simp] theorem finishPass_de (s : State) : (finishPass s).de =
    { s.de with
      conf := if s.de.cancelling then [] else s.de.conf
      abnd := if s.de.cancelling then [] else s.de.abnd
      discOvf := if s.de.cancelling then false else s.de.discOvf
      discStatus := if s.de.cancelling then .cancelled else .done
      sp := 0, cancelling := false, cancelReq := false, ds := .idle } := rfl
@[simp] theorem finishPass_env (s : State) : (finishPass s).env = s.env := rfl

/-! ### `fillDbuf` (R239, R243) -/

@[simp] theorem fillDbuf_cfg (d : List Byte) (s : State) : (fillDbuf d s).cfg = s.cfg := rfl
@[simp] theorem fillDbuf_attached (d : List Byte) (s : State) : (fillDbuf d s).attached = s.attached := rfl
@[simp] theorem fillDbuf_port (d : List Byte) (s : State) : (fillDbuf d s).port = s.port := rfl
@[simp] theorem fillDbuf_res (d : List Byte) (s : State) : (fillDbuf d s).res = s.res := rfl
@[simp] theorem fillDbuf_f (d : List Byte) (s : State) : (fillDbuf d s).f = s.f := rfl
@[simp] theorem fillDbuf_dec (d : List Byte) (s : State) : (fillDbuf d s).dec = s.dec := rfl
@[simp] theorem fillDbuf_tn (d : List Byte) (s : State) : (fillDbuf d s).tn = s.tn := rfl
@[simp] theorem fillDbuf_irqd (d : List Byte) (s : State) : (fillDbuf d s).irqd = s.irqd := rfl
@[simp] theorem fillDbuf_de (d : List Byte) (s : State) : (fillDbuf d s).de = { s.de with dbuf := s.de.dbuf.writeBytes 0 (d.take s.cfg.dbufCap) } := rfl
@[simp] theorem fillDbuf_env (d : List Byte) (s : State) : (fillDbuf d s).env = s.env := rfl

/-! ### `setDs` -/

@[simp] theorem setDs_cfg (d : Ds) (s : State) : (setDs d s).cfg = s.cfg := rfl
@[simp] theorem setDs_attached (d : Ds) (s : State) : (setDs d s).attached = s.attached := rfl
@[simp] theorem setDs_port (d : Ds) (s : State) : (setDs d s).port = s.port := rfl
@[simp] theorem setDs_res (d : Ds) (s : State) : (setDs d s).res = s.res := rfl
@[simp] theorem setDs_f (d : Ds) (s : State) : (setDs d s).f = s.f := rfl
@[simp] theorem setDs_dec (d : Ds) (s : State) : (setDs d s).dec = s.dec := rfl
@[simp] theorem setDs_tn (d : Ds) (s : State) : (setDs d s).tn = s.tn := rfl
@[simp] theorem setDs_irqd (d : Ds) (s : State) : (setDs d s).irqd = s.irqd := rfl
@[simp] theorem setDs_de (d : Ds) (s : State) : (setDs d s).de = { s.de with ds := d } := rfl
@[simp] theorem setDs_env (d : Ds) (s : State) : (setDs d s).env = s.env := rfl

/-! ### `noteEvent` (R242) -/

@[simp] theorem noteEvent_cfg (e : RespEvent) (s : State) : (noteEvent e s).cfg = s.cfg := rfl
@[simp] theorem noteEvent_attached (e : RespEvent) (s : State) : (noteEvent e s).attached = s.attached := rfl
@[simp] theorem noteEvent_port (e : RespEvent) (s : State) : (noteEvent e s).port = s.port := rfl
@[simp] theorem noteEvent_res (e : RespEvent) (s : State) : (noteEvent e s).res = s.res := rfl
@[simp] theorem noteEvent_f (e : RespEvent) (s : State) : (noteEvent e s).f = s.f := rfl
@[simp] theorem noteEvent_dec (e : RespEvent) (s : State) : (noteEvent e s).dec = s.dec := rfl
@[simp] theorem noteEvent_tn (e : RespEvent) (s : State) : (noteEvent e s).tn = s.tn := rfl
@[simp] theorem noteEvent_irqd (e : RespEvent) (s : State) : (noteEvent e s).irqd = s.irqd := rfl
@[simp] theorem noteEvent_de (e : RespEvent) (s : State) : (noteEvent e s).de = { s.de with lastEv := some e } := rfl
@[simp] theorem noteEvent_env (e : RespEvent) (s : State) : (noteEvent e s).env = s.env := rfl

/-! ### `withScript` -/

@[simp] theorem withScript_cfg (rest : List Act) (s : State) : (withScript rest s).cfg = s.cfg := rfl
@[simp] theorem withScript_attached (rest : List Act) (s : State) : (withScript rest s).attached = s.attached := rfl
@[simp] theorem withScript_port (rest : List Act) (s : State) : (withScript rest s).port = s.port := rfl
@[simp] theorem withScript_res (rest : List Act) (s : State) : (withScript rest s).res = s.res := rfl
@[simp] theorem withScript_f (rest : List Act) (s : State) : (withScript rest s).f = s.f := rfl
@[simp] theorem withScript_dec (rest : List Act) (s : State) : (withScript rest s).dec = s.dec := rfl
@[simp] theorem withScript_tn (rest : List Act) (s : State) : (withScript rest s).tn = s.tn := rfl
@[simp] theorem withScript_irqd (rest : List Act) (s : State) : (withScript rest s).irqd = s.irqd := rfl
@[simp] theorem withScript_de (rest : List Act) (s : State) : (withScript rest s).de = s.de := rfl
@[simp] theorem withScript_env (rest : List Act) (s : State) : (withScript rest s).env = { s.env with script := rest } := rfl

end Sys2Proof.Machine
end

