-- ==== Sys2Proof/Laws/Ops.lean ====
section
/-! SUPPORT. For each shared operation, one lemma that says everything it can do. The provers cite these instead of unfolding the operation. -/

namespace Sys2Proof.Machine

/-! ### Acceptance -/

/-- An operation in a class always completes with a next state: it runs, is held, or is dropped (R300). -/
theorem accepting_next {k : OpClass} {run : State → State} {s t : State} (h : accepting k run s = .next t) :
    (acceptance k (portColumn s) = .accept ∧ t = run (dropOffer s))
      ∨ (acceptance k (portColumn s) = .held ∧ t = s)
      ∨ (acceptance k (portColumn s) = .refused ∧ t = dropOffer s) := by
  unfold accepting at h
  split at h <;> cases h <;> simp [*]

theorem accepting_accept {k : OpClass} {run : State → State} {s : State} (h : acceptance k (portColumn s) = .accept) :
    accepting k run s = .next (run (dropOffer s)) := by simp [accepting, h]

theorem accepting_held {k : OpClass} {run : State → State} {s : State} (h : acceptance k (portColumn s) = .held) :
    accepting k run s = .next s := by simp [accepting, h]

theorem accepting_refused {k : OpClass} {run : State → State} {s : State} (h : acceptance k (portColumn s) = .refused) :
    accepting k run s = .next (dropOffer s) := by simp [accepting, h]

theorem portColumn_detached {s : State} (h : s.attached = false) : portColumn s = .detached := by simp [portColumn, h]

theorem portColumn_normal {s : State} (h : InNormal s) : portColumn s = .normal := by
  obtain ⟨h1, h2, h3⟩ := h
  simp [portColumn, h1, h2, h3]

theorem portColumn_call {s : State} (h : InCall s) : portColumn s = .call := by
  obtain ⟨h1, h2⟩ := h
  simp [portColumn, h1, h2]

theorem portColumn_discovery {s : State} (h : InDiscovery s) : portColumn s = .discovery := by
  obtain ⟨h1, h2, h3⟩ := h
  simp [portColumn, h1, h2, h3]

theorem portColumn_stepping {s : State} (h : InStepping s) : portColumn s = .stepping := by
  obtain ⟨h1, h2, h3⟩ := h
  simp [portColumn, h1, h2, h3]

/-- A state is in exactly one column of R300. -/
theorem portColumn_cases (s : State) :
    (s.attached = false ∧ portColumn s = .detached) ∨ (InNormal s ∧ portColumn s = .normal)
      ∨ (InCall s ∧ portColumn s = .call) ∨ (InStepping s ∧ portColumn s = .stepping)
      ∨ (InDiscovery s ∧ portColumn s = .discovery) := by
  cases ha : s.attached
  · exact .inl ⟨rfl, portColumn_detached ha⟩
  · by_cases hc : s.irqd.iq = .call
    · exact .inr (.inr (.inl ⟨⟨ha, hc⟩, portColumn_call ⟨ha, hc⟩⟩))
    · by_cases hi : s.irqd.iq = .idle
      · by_cases hd : s.de.ds = .idle
        · exact .inr (.inl ⟨⟨ha, hi, hd⟩, portColumn_normal ⟨ha, hi, hd⟩⟩)
        · exact .inr (.inr (.inr (.inr ⟨⟨ha, hi, hd⟩, portColumn_discovery ⟨ha, hi, hd⟩⟩)))
      · exact .inr (.inr (.inr (.inl ⟨⟨ha, hi, hc⟩, portColumn_stepping ⟨ha, hi, hc⟩⟩)))

/-- POLL, DISCSTART and DETACH run in mode NORMAL only. -/
theorem inNormal_of_accept {k : OpClass} {s : State} (hk : k = .poll ∨ k = .discstart ∨ k = .detach)
    (h : acceptance k (portColumn s) = .accept) : InNormal s := by
  rcases portColumn_cases s with ⟨-, e⟩ | ⟨hn, -⟩ | ⟨-, e⟩ | ⟨-, e⟩ | ⟨-, e⟩
  case inr.inl => exact hn
  all_goals rw [e] at h; rcases hk with rfl | rfl | rfl <;> cases h

/-- HRET runs in a call-out only. -/
theorem inCall_of_accept {s : State} (h : acceptance .hret (portColumn s) = .accept) : InCall s := by
  rcases portColumn_cases s with ⟨-, e⟩ | ⟨-, e⟩ | ⟨hc, -⟩ | ⟨-, e⟩ | ⟨-, e⟩
  case inr.inr.inl => exact hc
  all_goals rw [e] at h; cases h

/-- ATTACH runs without a handle and in mode NORMAL. -/
theorem attach_of_accept {s : State} (h : acceptance .attach (portColumn s) = .accept) : s.attached = false ∨ InNormal s := by
  rcases portColumn_cases s with ⟨ha, -⟩ | ⟨hn, -⟩ | ⟨-, e⟩ | ⟨-, e⟩ | ⟨-, e⟩
  case inl => exact .inl ha
  case inr.inl => exact .inr hn
  all_goals rw [e] at h; cases h

/-- An ordinary operation runs in mode NORMAL and in a call-out. -/
theorem accepting_ordinary {run : State → State} {s : State} (h : AcceptsOrdinary s) :
    accepting .ordinary run s = .next (run (dropOffer s)) := by
  rcases h with h | h
  · exact accepting_accept (by rw [portColumn_normal h]; rfl)
  · exact accepting_accept (by rw [portColumn_call h]; rfl)

theorem opClass_decodeHost (h : BitVec 8) :
    (match decodeHost h with
     | .ok i => (opClass i).isSome
     | .error _ => true) = true := by
  revert h; decide

/-- A value of `HOP` selects host operations only. -/
theorem selected_mem {n : Selectors} {h : Byte} {i : Instr} (hs : selected n h = some i) : i ∈ hostOperations :=
  List.mem_of_find?_eq_some hs

/-- The reference selectors are those of the opcode table (R100, R122). -/
theorem selected_ref (h : Byte) (i : Instr) : selected Cfg.ref.selectors h = some i ↔ decode (.host h) = .ok i := by
  have : (match decodeHost h with
      | .ok i => decide (selected Cfg.ref.selectors h = some i)
      | .error _ => decide (selected Cfg.ref.selectors h = none)) = true := by
    revert h; decide
  show _ ↔ decodeHost h = .ok i
  cases hd : decodeHost h <;> simp_all

theorem opClass_of_selected {n : Selectors} {h : Byte} {i : Instr} (hs : selected n h = some i) : ∃ k, opClass i = some k := by
  have : ∀ i ∈ hostOperations, (opClass i).isSome = true := by decide
  exact Option.isSome_iff_exists.mp (this i (selected_mem hs))

/-- What the HOST can offer is in a row of the table of R300. -/
theorem opClass_of_host {h : BitVec 8} {i : Instr} (hd : decode (.host h) = .ok i) : ∃ k, opClass i = some k := by
  have := opClass_decodeHost h
  rw [show decodeHost h = .ok i from hd] at this
  exact Option.isSome_iff_exists.mp this

/-! ### Transactions -/

@[simp] theorem busReply_dropOffer (s : State) (tx : List Byte) : busReply (dropOffer s) tx = busReply s tx := rfl
@[simp] theorem busReply_withScript (rest : List Act) (s : State) (tx : List Byte) :
    busReply (withScript rest s) tx = busReply s tx := rfl
@[simp] theorem busReply_advanceTn (s : State) (tx : List Byte) : busReply (advanceTn s) tx = busReply s tx := rfl
@[simp] theorem busReply_fillDbuf (d : List Byte) (s : State) (tx : List Byte) : busReply (fillDbuf d s) tx = busReply s tx := rfl

/-- The bytes of a read transaction (R63, R65): as many as asked for, or the failure of R67. -/
theorem readData_cases (cmd : Byte) (n : Nat) (s : State) :
    ((busReply s (cmd :: padding n)).length ≠ n + 1 ∧ readData cmd n s = none)
      ∨ ((busReply s (cmd :: padding n)).length = n + 1 ∧
          readData cmd n s = some ((busReply s (cmd :: padding n)).drop 1)
          ∧ ((busReply s (cmd :: padding n)).drop 1).length = n) := by
  by_cases h : (busReply s (cmd :: padding n)).length = n + 1
  · exact .inr ⟨h, by simp [readData, readTx, h], by simp [h]⟩
  · exact .inl ⟨h, by simp [readData, readTx, h]⟩

/-- A read that succeeds returns the number of bytes asked for. -/
theorem readData_length {cmd : Byte} {n : Nat} {s : State} {d : List Byte} (h : readData cmd n s = some d) :
    d.length = n := by
  unfold readData at h
  split at h <;> cases h
  simp [*]

@[simp] theorem memRead_fst (a : Byte) (n : Nat) (s : State) : (memRead a n s).1 = readData a n s := rfl
@[simp] theorem memRead_snd (a : Byte) (n : Nat) (s : State) : (memRead a n s).2 = busXfer (a :: padding n) s := rfl
@[simp] theorem bulkRead_fst (a : Byte) (n : Nat) (s : State) : (bulkRead a n s).1 = readData a n s := rfl
@[simp] theorem bulkRead_snd (a : Byte) (n : Nat) (s : State) : (bulkRead a n s).2 = busXfer (a :: padding n) s := rfl

/-! ### Register access (R131, R132) -/

/-- The checks of R131 and R133 before a read: no row or no read access first, then the length. -/
theorem checkRead_cases (c : Cfg) (a : Byte) (len : Nat) :
    ((lookup c a = none ∨ ∃ row, lookup c a = some row ∧ row.readable = false) ∧ checkRead c a len = .error .accessDenied)
      ∨ ∃ row, lookup c a = some row ∧ row.readable = true ∧
          ((len ≠ row.length ∧ checkRead c a len = .error .lengthMismatch)
            ∨ (len = row.length ∧ checkRead c a len = .ok row.length)) := by
  unfold checkRead
  cases hl : lookup c a with
  | none => simp
  | some row =>
    cases hr : row.readable with
    | false => simp [hr]
    | true =>
      by_cases hlen : len = row.length <;> simp [hr, hlen]

/-- The checks of R132 and R133 before a write. -/
theorem checkWrite_cases (c : Cfg) (a : Byte) (len : Nat) :
    ((lookup c a = none ∨ ∃ row, lookup c a = some row ∧ row.writable = false) ∧ checkWrite c a len = .error .accessDenied)
      ∨ ∃ row, lookup c a = some row ∧ row.writable = true ∧
          ((len ≠ row.length ∧ checkWrite c a len = .error .lengthMismatch)
            ∨ (len = row.length ∧ checkWrite c a len = .ok row.length)) := by
  unfold checkWrite
  cases hl : lookup c a with
  | none => simp
  | some row =>
    cases hr : row.writable with
    | false => simp [hr]
    | true =>
      by_cases hlen : len = row.length <;> simp [hr, hlen]

/-- Everything a register read can do (R131). -/
theorem readRegister_cases (a : Byte) (len : Nat) (s : State) :
    ((lookup s.cfg a = none ∨ ∃ row, lookup s.cfg a = some row ∧ row.readable = false)
        ∧ readRegister a len s = raise .accessDenied 0 s)
      ∨ ∃ row, lookup s.cfg a = some row ∧ row.readable = true ∧
          ((len ≠ row.length ∧ readRegister a len s = raise .lengthMismatch 0 s)
            ∨ (len = row.length ∧ (busReply s (a :: padding row.length)).length ≠ row.length + 1
                ∧ readRegister a len s = raise .lengthMismatch 0 (busXfer (a :: padding row.length) s))
            ∨ (len = row.length ∧ (busReply s (a :: padding row.length)).length = row.length + 1
                ∧ readRegister a len s =
                    complete (deliver ((busReply s (a :: padding row.length)).drop 1) (busXfer (a :: padding row.length) s)))) := by
  rcases checkRead_cases s.cfg a len with ⟨h, hc⟩ | ⟨row, hl, hr, ⟨hn, hc⟩ | ⟨hn, hc⟩⟩
  · exact .inl ⟨h, by simp [readRegister, hc]⟩
  · exact .inr ⟨row, hl, hr, .inl ⟨hn, by simp [readRegister, hc]⟩⟩
  · refine .inr ⟨row, hl, hr, .inr ?_⟩
    rcases readData_cases a row.length s with ⟨h, hd⟩ | ⟨h, hd, -⟩
    · exact .inl ⟨hn, h, by simp [readRegister, hc, memRead, hd, readTx]⟩
    · exact .inr ⟨hn, h, by simp [readRegister, hc, memRead, hd, readTx]⟩

/-- Everything a register write can do (R132). -/
theorem writeRegister_cases (a : Byte) (len : Nat) (s : State) :
    ((lookup s.cfg a = none ∨ ∃ row, lookup s.cfg a = some row ∧ row.writable = false)
        ∧ writeRegister a len s = raise .accessDenied 0 s)
      ∨ ∃ row, lookup s.cfg a = some row ∧ row.writable = true ∧
          ((len ≠ row.length ∧ writeRegister a len s = raise .lengthMismatch 0 s)
            ∨ (len = row.length
                ∧ writeRegister a len s = complete (busXfer ((0x40 ||| a) :: obufBytes s row.length) s))) := by
  rcases checkWrite_cases s.cfg a len with ⟨h, hc⟩ | ⟨row, hl, hr, ⟨hn, hc⟩ | ⟨hn, hc⟩⟩
  · exact .inl ⟨h, by simp [writeRegister, hc]⟩
  · exact .inr ⟨row, hl, hr, .inl ⟨hn, by simp [writeRegister, hc]⟩⟩
  · exact .inr ⟨row, hl, hr, .inr ⟨hn, by simp [writeRegister, hc, memWrite, writeCommand]⟩⟩

/-! ### Bulk windows (R153, R156) -/

/-- Everything a bulk read can do. -/
theorem readWindow_cases (cmd : Byte) (n : Nat) (s : State) :
    ((busReply s (cmd :: padding n)).length ≠ n + 1
        ∧ readWindow cmd n s = raise .frameLengthError 0 (busXfer (cmd :: padding n) s))
      ∨ ((busReply s (cmd :: padding n)).length = n + 1
        ∧ readWindow cmd n s = complete (deliver ((busReply s (cmd :: padding n)).drop 1) (busXfer (cmd :: padding n) s))) := by
  rcases readData_cases cmd n s with ⟨h, hd⟩ | ⟨h, hd, -⟩
  · exact .inl ⟨h, by simp [readWindow, bulkRead, hd, readTx]⟩
  · exact .inr ⟨h, by simp [readWindow, bulkRead, hd, readTx]⟩

/-- Everything a bulk write can do after the length check (R24, R156). -/
theorem writeWindow_cases (cmd : Byte) (n : Nat) (s : State) :
    (s.cfg.bufCap < n ∧ writeWindow cmd n s = raise .frameLengthError 0 s)
      ∨ (n ≤ s.cfg.bufCap ∧ writeWindow cmd n s = complete (busXfer (cmd :: obufBytes s n) s)) := by
  by_cases h : s.cfg.bufCap < n
  · exact .inl ⟨h, by simp [writeWindow, h]⟩
  · exact .inr ⟨by omega, by simp [writeWindow, h, bulkWrite]⟩

/-- Everything a bulk write can do (R24, R152, R156). -/
theorem checkedWrite_cases (cmd : Byte) (n : Nat) (s : State) :
    ((s.port.len.toNat ≠ n ∨ s.cfg.bufCap < n) ∧ checkedWrite cmd n s = raise .frameLengthError 0 s)
      ∨ (s.port.len.toNat = n ∧ n ≤ s.cfg.bufCap ∧ checkedWrite cmd n s = complete (busXfer (cmd :: obufBytes s n) s)) := by
  by_cases h : s.port.len.toNat = n
  · rcases writeWindow_cases cmd n s with ⟨hc, e⟩ | ⟨hc, e⟩
    · exact .inl ⟨.inr hc, by simp [checkedWrite, h, e]⟩
    · exact .inr ⟨h, hc, by simp [checkedWrite, h, e]⟩
  · exact .inl ⟨.inl h, by simp [checkedWrite, h]⟩

/-! ### RDM codec (R201, R210) -/

/-- A decode, taken apart (R210). -/
theorem decodeFrame_cases (rt : ResponseTypes) (f : List Byte) :
    (∃ e, frameParse f = some e ∧ decodeFrame rt f = .error e)
      ∨ (frameParse f = none ∧
          ((∃ e, kindOf rt (roleOf (messageOf f).cc) (messageOf f).prt (frameData f) = .error e ∧ decodeFrame rt f = .error e)
            ∨ ∃ kind arg, kindOf rt (roleOf (messageOf f).cc) (messageOf f).prt (frameData f) = .ok (kind, arg)
                ∧ decodeFrame rt f = .ok (frameFields f, { role := roleOf (messageOf f).cc, kind := kind, arg := arg }))) := by
  unfold decodeFrame
  split
  next e he => exact .inl ⟨e, he, rfl⟩
  next he =>
    refine .inr ⟨he, ?_⟩
    split
    next e hk => exact .inl ⟨e, hk, rfl⟩
    next kind arg hk => exact .inr ⟨kind, arg, hk, rfl⟩

/-- Everything RDMDEC can do once it is accepted. -/
theorem rdmDecode_cases (s : State) :
    (s.cfg.bufCap < s.port.len.toNat ∧ rdmDecode s = raise .lengthMismatch 0 s)
      ∨ (s.port.len.toNat ≤ s.cfg.bufCap ∧
          ((∃ e, decodeFrame s.cfg.rts (obufBytes s s.port.len.toNat) = .error e ∧ rdmDecode s = raise e 0 s)
            ∨ ∃ fields d, decodeFrame s.cfg.rts (obufBytes s s.port.len.toNat) = .ok (fields, d)
                ∧ rdmDecode s = writeDecoded fields d (frameData (obufBytes s s.port.len.toNat)) s)) := by
  by_cases h : s.cfg.bufCap < s.port.len.toNat
  · exact .inl ⟨h, by simp [rdmDecode, h]⟩
  · refine .inr ⟨by omega, ?_⟩
    cases hd : decodeFrame s.cfg.rts (obufBytes s s.port.len.toNat) with
    | error e => exact .inl ⟨e, rfl, by simp [rdmDecode, h, hd]⟩
    | ok p => exact .inr ⟨p.1, p.2, rfl, by simp [rdmDecode, h, hd]⟩

/-! ### The dispatcher -/

/-- The IRQD's read of a flag register, in a table that lets it be read (R140, R176). -/
theorem readFlagRegister_cases {a : Byte} {s : State} {row : RegisterInfo} (hl : lookup s.cfg a = some row)
    (hr : row.readable = true) :
    ((busReply s (a :: padding row.length)).length ≠ row.length + 1
        ∧ readFlagRegister a s = (.error .lengthMismatch, busXfer (a :: padding row.length) s))
      ∨ ((busReply s (a :: padding row.length)).length = row.length + 1
        ∧ readFlagRegister a s =
            (.ok (be ((busReply s (a :: padding row.length)).drop 1)), busXfer (a :: padding row.length) s)) := by
  have hc : checkRead s.cfg a (tableLength s.cfg a) = .ok row.length := by
    simp [checkRead, hl, hr, tableLength_of_lookup hl]
  rcases readData_cases a row.length s with ⟨h, hd⟩ | ⟨h, hd, -⟩
  · exact .inl ⟨h, by simp [readFlagRegister, hc, memRead, hd, readTx]⟩
  · exact .inr ⟨h, by simp [readFlagRegister, hc, memRead, hd, readTx]⟩

/-- The IRQD's write-back, in a table that lets the register be written (R183, R184). -/
theorem writeBack_cases {a : Byte} {v : Nat} {s : State} {row : RegisterInfo} (hl : lookup s.cfg a = some row)
    (hw : row.writable = true) :
    (v = 0 ∧ writeBack a v s = s)
      ∨ (v ≠ 0 ∧ writeBack a v s = busXfer ((0x40 ||| a) :: beBytes row.length v) s) := by
  have hc : checkWrite s.cfg a (tableLength s.cfg a) = .ok row.length := by
    simp [checkWrite, hl, hw, tableLength_of_lookup hl]
  by_cases h : v = 0
  · exact .inl ⟨h, by simp [writeBack, h]⟩
  · exact .inr ⟨h, by simp [writeBack, h, hc, memWrite, writeCommand]⟩

theorem forall_lt_two (p : Nat → Prop) : (∀ k < 2, p k) ↔ p 0 ∧ p 1 :=
  ⟨fun h => ⟨h 0 (by omega), h 1 (by omega)⟩, fun ⟨h0, h1⟩ k hk => by interval_cases k <;> assumption⟩

theorem forall_lt_three (p : Nat → Prop) : (∀ k < 3, p k) ↔ p 0 ∧ p 1 ∧ p 2 :=
  ⟨fun h => ⟨h 0 (by omega), h 1 (by omega), h 2 (by omega)⟩, fun ⟨h0, h1, h2⟩ k hk => by interval_cases k <;> assumption⟩

/-- A claim about the four handlers, one by one. -/
theorem forall_lt_four (p : Nat → Prop) : (∀ k < 4, p k) ↔ p 0 ∧ p 1 ∧ p 2 ∧ p 3 :=
  ⟨fun h => ⟨h 0 (by omega), h 1 (by omega), h 2 (by omega), h 3 (by omega)⟩,
    fun ⟨h0, h1, h2, h3⟩ k hk => by interval_cases k <;> assumption⟩

/-- The handler that is called is the least eligible one (R177, R179). -/
theorem nextHandler_some {d : Irqd} {k : BitVec 2} :
    nextHandler d = some k ↔ eligible d k.toNat = true ∧ ∀ j < k.toNat, eligible d j = false := by
  have hk : k = 0 ∨ k = 1 ∨ k = 2 ∨ k = 3 := by
    revert k; decide
  unfold nextHandler
  rcases hk with rfl | rfl | rfl | rfl
  · cases h0 : eligible d 0 <;> cases h1 : eligible d 1 <;> cases h2 : eligible d 2 <;> cases h3 : eligible d 3 <;> simp [h0]
  · cases h0 : eligible d 0 <;> cases h1 : eligible d 1 <;> cases h2 : eligible d 2 <;> cases h3 : eligible d 3 <;> simp [h0, h1]
  · rw [show (2 : BitVec 2).toNat = 2 from rfl, forall_lt_two]
    cases h0 : eligible d 0 <;> cases h1 : eligible d 1 <;> cases h2 : eligible d 2 <;> cases h3 : eligible d 3 <;> simp
  · rw [show (3 : BitVec 2).toNat = 3 from rfl, forall_lt_three]
    cases h0 : eligible d 0 <;> cases h1 : eligible d 1 <;> cases h2 : eligible d 2 <;> cases h3 : eligible d 3 <;> simp

theorem nextHandler_none {d : Irqd} : nextHandler d = none ↔ ∀ k < 4, eligible d k = false := by
  unfold nextHandler
  rw [forall_lt_four]
  cases h0 : eligible d 0 <;> cases h1 : eligible d 1 <;> cases h2 : eligible d 2 <;> cases h3 : eligible d 3 <;> simp

/-- One bit of a flag register written, the others kept. -/
theorem setFlag_getLsbD (v : BitVec 4) {k : Nat} (hk : k < 4) (b : Bool) {j : Nat} (hj : j < 4) :
    (setFlag v k b).getLsbD j = if j = k then b else v.getLsbD j := by
  revert v b
  have : (k = 0 ∨ k = 1 ∨ k = 2 ∨ k = 3) ∧ (j = 0 ∨ j = 1 ∨ j = 2 ∨ j = 3) := by omega
  rcases this with ⟨rfl | rfl | rfl | rfl, rfl | rfl | rfl | rfl⟩ <;> decide

/-- A shifted flag has its own bit only. -/
theorem flagAt_testBit (b : Bool) (n i : Nat) : (flagAt b n).testBit i = (b && decide (i = n)) := by
  cases b with
  | false => simp [flagAt]
  | true =>
    simp [flagAt, Nat.one_shiftLeft, Nat.testBit_two_pow, eq_comm]

/-! ### The discovery engine -/

/-- `collision` without a fault: a repeat, an abandoned leaf, or a split (R246). -/
theorem collision_next {s t : State} (h : collision s = .next t) :
    (s.de.curLo = s.de.curHi ∧ s.de.retry < s.cfg.leafRetryMax
        ∧ t = { s with de := { s.de with retry := s.de.retry + 1, ds := .branchTx } })
      ∨ (s.de.curLo = s.de.curHi ∧ s.cfg.leafRetryMax ≤ s.de.retry ∧ t = setDs .pop (abandonUid s.de.curLo s))
      ∨ (s.de.curLo ≠ s.de.curHi ∧ s.de.sp + 2 ≤ s.cfg.stackCap ∧ t = splitRange s) := by
  unfold collision at h
  split at h
  · split at h <;> cases h
    · exact .inl ⟨‹_›, ‹_›, rfl⟩
    · exact .inr (.inl ⟨‹_›, by omega, rfl⟩)
  · split at h <;> cases h
    exact .inr (.inr ⟨‹_›, ‹_›, rfl⟩)

/-- A collision stops the machine only when a split finds no room. -/
theorem collision_fault {s : State} {e : Fault} (h : collision s = .fault e) :
    e = .stackOverflow ∧ s.de.curLo ≠ s.de.curHi ∧ s.cfg.stackCap < s.de.sp + 2 := by
  unfold collision at h
  split at h
  · split at h <;> cases h
  · split at h <;> cases h
    exact ⟨rfl, ‹_›, by omega⟩

/-- Everything a response event can do (R241, R242, R249, R253). -/
theorem deliverEvent_next {e : RespEvent} {s t : State} (h : deliverEvent e s = .next t) :
    t = s
      ∨ (s.de.cancelReq = true ∧ (s.de.ds = .branchWait ∨ s.de.ds = .muteWait) ∧ t = cancelPass s)
      ∨ (s.de.ds = .branchWait ∧ e = .timeout ∧ t = setDs .pop (noteEvent e s))
      ∨ (s.de.ds = .branchWait ∧ e = .avail ∧ t = setDs .branchRx (noteEvent e s))
      ∨ (s.de.ds = .branchWait ∧ e = .collision ∧ collision (noteEvent e s) = .next t)
      ∨ (s.de.ds = .muteWait ∧ e = .avail ∧ t = setDs .muteRx (noteEvent e s))
      ∨ (s.de.ds = .muteWait ∧ e ≠ .avail ∧ t = setDs .pop (noteEvent e s)) := by
  unfold deliverEvent at h
  split at h
  · split at h
    · cases h; simp_all
    · cases e
      · cases h; simp_all
      · simp_all [branchEvent]
      · cases h; simp_all
  · split at h
    · cases h; simp_all
    · cases h; cases e <;> simp_all [muteEvent]
  all_goals cases h; simp

/-- What a well-formed slice gives (R245). -/
theorem isolatedUid_some {d : List Byte} {u : Uid} (h : isolatedUid d = some u) :
    frameParse (sliceFrame d) = none ∧ reservedUid u = false ∧ u = (messageOf (sliceFrame d)).src := by
  simp only [isolatedUid] at h
  split at h <;> cases h
  next hp => exact ⟨hp.1, hp.2, rfl⟩

/-- Everything the read of a branch response can do (R243, R245, R259): the UID is isolated, or the range counts as a
collision, with or without the window in `DBUF`. -/
theorem stepBranchRx_next {s t : State} (h : stepBranchRx s = .next t) :
    ∃ d u, (d = s.de.dbuf ∨ ∃ b : List Byte, b.length = s.cfg.lenRdrdm ∧ d = s.de.dbuf.writeBytes 0 (b.take s.cfg.dbufCap)) ∧
      let s₁ := { s with
        env := envAfter (0x83 :: padding s.cfg.lenRdrdm) s
        res := { s.res with firstRx := firstRxAfter (0x83 :: padding s.cfg.lenRdrdm) s }
        de := { s.de with dbuf := d } }
      collision s₁ = .next t
        ∨ (reservedUid u = false ∧ t = { s₁ with de := { s₁.de with isoUid := u, ds := .muteTx } }) := by
  unfold stepBranchRx at h
  rcases readData_cases 0x83 s.cfg.lenRdrdm s with ⟨-, hd⟩ | ⟨-, hd, hl⟩ <;> simp only [bulkRead, hd] at h
  · exact ⟨s.de.dbuf, 0, .inl rfl, .inl h⟩
  · split at h
    next u hu =>
      cases h
      exact ⟨_, u, .inr ⟨_, hl, rfl⟩, .inr ⟨(isolatedUid_some hu).2.1, rfl⟩⟩
    next => exact ⟨_, 0, .inr ⟨_, hl, rfl⟩, .inl h⟩

theorem hasRoom_eq (cap : Option Nat) (n : Nat) : hasRoom cap n = decide (cap ≠ some n) := by
  cases cap with
  | none => simp [hasRoom]
  | some c => simp [hasRoom, bne, Bool.beq_eq_decide_eq, eq_comm]

/-- Recording a UID (R260). -/
theorem recordUid_eq (u : Uid) (s : State) :
    recordUid u s = { s with de := { s.de with
      conf := listAfter s.cfg.confCap s.de.conf u
      discOvf := ovfAfter s.cfg.confCap s.de.conf u s.de.discOvf } } := by
  unfold recordUid listAfter ovfAfter
  rw [hasRoom_eq]
  by_cases hm : u ∈ s.de.conf
  · simp [hm]
  · by_cases hc : s.cfg.confCap = some s.de.conf.length <;> simp [hm, hc]

/-- Abandoning a leaf (R261). -/
theorem abandonUid_eq (u : Uid) (s : State) :
    abandonUid u s = { s with de := { s.de with
      abnd := listAfter s.cfg.abndCap s.de.abnd u
      discOvf := ovfAfter s.cfg.abndCap s.de.abnd u s.de.discOvf } } := by
  unfold abandonUid listAfter ovfAfter
  rw [hasRoom_eq]
  by_cases hm : u ∈ s.de.abnd
  · simp [hm]
  · by_cases hc : s.cfg.abndCap = some s.de.abnd.length <;> simp [hm, hc]

/-- A list with one more result recorded stays without duplicates and within its capacity. -/
theorem listAfter_sound {cap : Option Nat} {l : List Uid} (h : ListSound cap l) (u : Uid) : ListSound cap (listAfter cap l u) := by
  obtain ⟨hn, hc⟩ := h
  unfold listAfter
  split
  · exact ⟨hn, hc⟩
  next hu =>
    simp only [not_or] at hu
    refine ⟨by simp [List.nodup_append, hn]; rintro a ha rfl; exact hu.1 ha, ?_⟩
    intro c hcc
    have := hc c hcc
    simp only [Option.mem_def] at hcc
    have : c ≠ l.length := by rintro rfl; exact hu.2 hcc
    simp only [List.length_append, List.length_singleton]
    omega

/-- What a collision answers, whatever brought it (R246). -/
theorem collision_answer (r : State) : CollisionAnswer r (collision r) := by
  refine ⟨fun hne hroom => ?_, fun heq hlt => ?_, fun heq hle => ?_⟩
  · simp [collision, hne, hroom, splitRange]
  · simp [collision, heq, hlt]
  · simp [collision, heq, Nat.not_lt.mpr hle, abandonUid_eq, setDs]

/-- A frame that parses is the slice of every window it begins (R244). -/
theorem sliceFrame_append {f tail : List Byte} (h : frameParse f = none) : sliceFrame (f ++ tail) = f := by
  unfold frameParse at h
  split at h
  · cases h
  split at h
  · cases h
  next hlen =>
    have hl : 26 ≤ f.length := by omega
    have h2 : byteAt (f ++ tail) 2 = byteAt f 2 := by
      simp [byteAt, List.getD, List.getElem?_append_left (show 2 < f.length by omega)]
    have hmin : min ((byteAt f 2).toNat + 2) (f ++ tail).length = f.length := by simp; omega
    rw [sliceFrame, if_neg (by simp; omega), h2, hmin]
    simp

/-- The slice of a window is at its start (R244). -/
theorem sliceFrame_prefix (w : List Byte) : ∃ tail, w = sliceFrame w ++ tail := by
  unfold sliceFrame
  split
  · exact ⟨[], by simp⟩
  · exact ⟨_, (List.take_append_drop _ _).symm⟩

/-- A length of 16 bits stands in `RLEN` as it is (R25). -/
theorem rlenOf_of_lt {n : Nat} (h : n < 65536) : rlenOf n = BitVec.ofNat 16 n := by simp [rlenOf, h]

/-- The three requests in their windows, as the claims name them (R237). -/
theorem inWindow_branchRequest (s : State) : inWindow s.cfg.lenWrrdm (branchRequest s) =
    requestWindow s 0xFFFFFFFFFFFF s.cfg.pids.discUniqueBranch
      (beBytes 6 s.de.curLo.toNat ++ beBytes 6 s.de.curHi.toNat) := rfl

theorem inWindow_muteRequest (s : State) : inWindow s.cfg.lenWrrdm (muteRequest s) =
    requestWindow s s.de.isoUid s.cfg.pids.discMute [] := rfl

theorem inWindow_unmuteRequest (s : State) : inWindow s.cfg.lenWrrdm (unmuteRequest s) =
    requestWindow s 0xFFFFFFFFFFFF s.cfg.pids.discUnMute [] := rfl

/-- What sending a request does (R238, R239): one transaction, `DBUF`, and the transaction number. -/
theorem sendRequest_eq (frame : List Byte) (s : State) :
    sendRequest frame s = { s with
      tn := s.tn + 1
      env := envAfter (0x92 :: inWindow s.cfg.lenWrrdm frame) s
      res := { s.res with firstRx := firstRxAfter (0x92 :: inWindow s.cfg.lenWrrdm frame) s }
      de := { s.de with dbuf := s.de.dbuf.writeBytes 0 ((inWindow s.cfg.lenWrrdm frame).take s.cfg.dbufCap) } } := rfl

/-- A request in its window fills it exactly (R239). -/
theorem inWindow_length {n : Nat} {frame : List Byte} (h : frame.length ≤ n) : (inWindow n frame).length = n := by
  simp [inWindow]; omega

@[simp] theorem beBytes_length (n v : Nat) : (beBytes n v).length = n := by
  induction n generalizing v with
  | zero => rfl
  | succ n ih => simp [beBytes, ih]

/-- The length of an encoded frame: 26 bytes and the parameter data (R200). -/
theorem encodeFrame_length (m : Message) (pd : List Byte) : (encodeFrame m pd).length = 26 + pd.length := by
  simp [encodeFrame, frameBody]; omega

end Sys2Proof.Machine
end

