-- ==== Sys2Proof/Laws/Frame.lean ====
section
/-! SUPPORT. The frames of the bodies of the operations: what each leaves as it was. -/

namespace Sys2Proof.Machine

/-! ### `readRegister` (R131) -/

theorem readRegister_frame (a : Byte) (n : Nat) (s : State) : readRegister a n s =
    { s with res := (readRegister a n s).res, env := (readRegister a n s).env } := by
  rcases readRegister_cases a n s with ⟨-, e⟩ | ⟨_, -, -, ⟨-, e⟩ | ⟨-, -, e⟩ | ⟨-, -, e⟩⟩ <;> rw [e] <;> rfl

@[simp] theorem readRegister_cfg (a : Byte) (n : Nat) (s : State) : (readRegister a n s).cfg = s.cfg := by rw [readRegister_frame a n s]
@[simp] theorem readRegister_attached (a : Byte) (n : Nat) (s : State) : (readRegister a n s).attached = s.attached := by rw [readRegister_frame a n s]
@[simp] theorem readRegister_port (a : Byte) (n : Nat) (s : State) : (readRegister a n s).port = s.port := by rw [readRegister_frame a n s]
@[simp] theorem readRegister_f (a : Byte) (n : Nat) (s : State) : (readRegister a n s).f = s.f := by rw [readRegister_frame a n s]
@[simp] theorem readRegister_dec (a : Byte) (n : Nat) (s : State) : (readRegister a n s).dec = s.dec := by rw [readRegister_frame a n s]
@[simp] theorem readRegister_tn (a : Byte) (n : Nat) (s : State) : (readRegister a n s).tn = s.tn := by rw [readRegister_frame a n s]
@[simp] theorem readRegister_irqd (a : Byte) (n : Nat) (s : State) : (readRegister a n s).irqd = s.irqd := by rw [readRegister_frame a n s]
@[simp] theorem readRegister_de (a : Byte) (n : Nat) (s : State) : (readRegister a n s).de = s.de := by rw [readRegister_frame a n s]

/-! ### `writeRegister` (R132) -/

theorem writeRegister_frame (a : Byte) (n : Nat) (s : State) : writeRegister a n s =
    { s with res := (writeRegister a n s).res, env := (writeRegister a n s).env } := by
  rcases writeRegister_cases a n s with ⟨-, e⟩ | ⟨_, -, -, ⟨-, e⟩ | ⟨-, e⟩⟩ <;> rw [e] <;> rfl

@[simp] theorem writeRegister_cfg (a : Byte) (n : Nat) (s : State) : (writeRegister a n s).cfg = s.cfg := by rw [writeRegister_frame a n s]
@[simp] theorem writeRegister_attached (a : Byte) (n : Nat) (s : State) : (writeRegister a n s).attached = s.attached := by rw [writeRegister_frame a n s]
@[simp] theorem writeRegister_port (a : Byte) (n : Nat) (s : State) : (writeRegister a n s).port = s.port := by rw [writeRegister_frame a n s]
@[simp] theorem writeRegister_f (a : Byte) (n : Nat) (s : State) : (writeRegister a n s).f = s.f := by rw [writeRegister_frame a n s]
@[simp] theorem writeRegister_dec (a : Byte) (n : Nat) (s : State) : (writeRegister a n s).dec = s.dec := by rw [writeRegister_frame a n s]
@[simp] theorem writeRegister_tn (a : Byte) (n : Nat) (s : State) : (writeRegister a n s).tn = s.tn := by rw [writeRegister_frame a n s]
@[simp] theorem writeRegister_irqd (a : Byte) (n : Nat) (s : State) : (writeRegister a n s).irqd = s.irqd := by rw [writeRegister_frame a n s]
@[simp] theorem writeRegister_de (a : Byte) (n : Nat) (s : State) : (writeRegister a n s).de = s.de := by rw [writeRegister_frame a n s]

/-! ### `readWindow` (R153) -/

theorem readWindow_frame (c : Byte) (n : Nat) (s : State) : readWindow c n s =
    { s with res := (readWindow c n s).res, env := (readWindow c n s).env } := by
  rcases readWindow_cases c n s with ⟨-, e⟩ | ⟨-, e⟩ <;> rw [e] <;> rfl

@[simp] theorem readWindow_cfg (c : Byte) (n : Nat) (s : State) : (readWindow c n s).cfg = s.cfg := by rw [readWindow_frame c n s]
@[simp] theorem readWindow_attached (c : Byte) (n : Nat) (s : State) : (readWindow c n s).attached = s.attached := by rw [readWindow_frame c n s]
@[simp] theorem readWindow_port (c : Byte) (n : Nat) (s : State) : (readWindow c n s).port = s.port := by rw [readWindow_frame c n s]
@[simp] theorem readWindow_f (c : Byte) (n : Nat) (s : State) : (readWindow c n s).f = s.f := by rw [readWindow_frame c n s]
@[simp] theorem readWindow_dec (c : Byte) (n : Nat) (s : State) : (readWindow c n s).dec = s.dec := by rw [readWindow_frame c n s]
@[simp] theorem readWindow_tn (c : Byte) (n : Nat) (s : State) : (readWindow c n s).tn = s.tn := by rw [readWindow_frame c n s]
@[simp] theorem readWindow_irqd (c : Byte) (n : Nat) (s : State) : (readWindow c n s).irqd = s.irqd := by rw [readWindow_frame c n s]
@[simp] theorem readWindow_de (c : Byte) (n : Nat) (s : State) : (readWindow c n s).de = s.de := by rw [readWindow_frame c n s]

/-! ### `checkedWrite` (R156) -/

theorem checkedWrite_frame (c : Byte) (n : Nat) (s : State) : checkedWrite c n s =
    { s with res := (checkedWrite c n s).res, env := (checkedWrite c n s).env } := by
  rcases checkedWrite_cases c n s with ⟨-, e⟩ | ⟨-, -, e⟩ <;> rw [e] <;> rfl

@[simp] theorem checkedWrite_cfg (c : Byte) (n : Nat) (s : State) : (checkedWrite c n s).cfg = s.cfg := by rw [checkedWrite_frame c n s]
@[simp] theorem checkedWrite_attached (c : Byte) (n : Nat) (s : State) : (checkedWrite c n s).attached = s.attached := by rw [checkedWrite_frame c n s]
@[simp] theorem checkedWrite_port (c : Byte) (n : Nat) (s : State) : (checkedWrite c n s).port = s.port := by rw [checkedWrite_frame c n s]
@[simp] theorem checkedWrite_f (c : Byte) (n : Nat) (s : State) : (checkedWrite c n s).f = s.f := by rw [checkedWrite_frame c n s]
@[simp] theorem checkedWrite_dec (c : Byte) (n : Nat) (s : State) : (checkedWrite c n s).dec = s.dec := by rw [checkedWrite_frame c n s]
@[simp] theorem checkedWrite_tn (c : Byte) (n : Nat) (s : State) : (checkedWrite c n s).tn = s.tn := by rw [checkedWrite_frame c n s]
@[simp] theorem checkedWrite_irqd (c : Byte) (n : Nat) (s : State) : (checkedWrite c n s).irqd = s.irqd := by rw [checkedWrite_frame c n s]
@[simp] theorem checkedWrite_de (c : Byte) (n : Nat) (s : State) : (checkedWrite c n s).de = s.de := by rw [checkedWrite_frame c n s]

/-! ### `writeWindow` (R156) -/

theorem writeWindow_frame (c : Byte) (n : Nat) (s : State) : writeWindow c n s =
    { s with res := (writeWindow c n s).res, env := (writeWindow c n s).env } := by
  rcases writeWindow_cases c n s with ⟨-, e⟩ | ⟨-, e⟩ <;> rw [e] <;> rfl

@[simp] theorem writeWindow_cfg (c : Byte) (n : Nat) (s : State) : (writeWindow c n s).cfg = s.cfg := by rw [writeWindow_frame c n s]
@[simp] theorem writeWindow_attached (c : Byte) (n : Nat) (s : State) : (writeWindow c n s).attached = s.attached := by rw [writeWindow_frame c n s]
@[simp] theorem writeWindow_port (c : Byte) (n : Nat) (s : State) : (writeWindow c n s).port = s.port := by rw [writeWindow_frame c n s]
@[simp] theorem writeWindow_f (c : Byte) (n : Nat) (s : State) : (writeWindow c n s).f = s.f := by rw [writeWindow_frame c n s]
@[simp] theorem writeWindow_dec (c : Byte) (n : Nat) (s : State) : (writeWindow c n s).dec = s.dec := by rw [writeWindow_frame c n s]
@[simp] theorem writeWindow_tn (c : Byte) (n : Nat) (s : State) : (writeWindow c n s).tn = s.tn := by rw [writeWindow_frame c n s]
@[simp] theorem writeWindow_irqd (c : Byte) (n : Nat) (s : State) : (writeWindow c n s).irqd = s.irqd := by rw [writeWindow_frame c n s]
@[simp] theorem writeWindow_de (c : Byte) (n : Nat) (s : State) : (writeWindow c n s).de = s.de := by rw [writeWindow_frame c n s]

/-! ### `noOperation` (R134) -/

theorem noOperation_frame (s : State) : noOperation s =
    { s with res := (noOperation s).res, env := (noOperation s).env } := rfl

@[simp] theorem noOperation_cfg (s : State) : (noOperation s).cfg = s.cfg := by rw [noOperation_frame s]
@[simp] theorem noOperation_attached (s : State) : (noOperation s).attached = s.attached := by rw [noOperation_frame s]
@[simp] theorem noOperation_port (s : State) : (noOperation s).port = s.port := by rw [noOperation_frame s]
@[simp] theorem noOperation_f (s : State) : (noOperation s).f = s.f := by rw [noOperation_frame s]
@[simp] theorem noOperation_dec (s : State) : (noOperation s).dec = s.dec := by rw [noOperation_frame s]
@[simp] theorem noOperation_tn (s : State) : (noOperation s).tn = s.tn := by rw [noOperation_frame s]
@[simp] theorem noOperation_irqd (s : State) : (noOperation s).irqd = s.irqd := by rw [noOperation_frame s]
@[simp] theorem noOperation_de (s : State) : (noOperation s).de = s.de := by rw [noOperation_frame s]

/-! ### `rdmEncode` (R201) -/

theorem rdmEncode_frame (s : State) : rdmEncode s =
    { s with res := (rdmEncode s).res, f := (rdmEncode s).f, tn := (rdmEncode s).tn } := by
  unfold rdmEncode takeAutoTn; split <;> [rfl; (split <;> simp only [encodeToRbuf, complete, deliver, advanceTn])]

@[simp] theorem rdmEncode_cfg (s : State) : (rdmEncode s).cfg = s.cfg := by rw [rdmEncode_frame s]
@[simp] theorem rdmEncode_attached (s : State) : (rdmEncode s).attached = s.attached := by rw [rdmEncode_frame s]
@[simp] theorem rdmEncode_port (s : State) : (rdmEncode s).port = s.port := by rw [rdmEncode_frame s]
@[simp] theorem rdmEncode_dec (s : State) : (rdmEncode s).dec = s.dec := by rw [rdmEncode_frame s]
@[simp] theorem rdmEncode_irqd (s : State) : (rdmEncode s).irqd = s.irqd := by rw [rdmEncode_frame s]
@[simp] theorem rdmEncode_de (s : State) : (rdmEncode s).de = s.de := by rw [rdmEncode_frame s]
@[simp] theorem rdmEncode_env (s : State) : (rdmEncode s).env = s.env := by rw [rdmEncode_frame s]

/-! ### `rdmDecode` (R210) -/

theorem rdmDecode_frame (s : State) : rdmDecode s =
    { s with res := (rdmDecode s).res, f := (rdmDecode s).f, dec := (rdmDecode s).dec } := by
  rcases rdmDecode_cases s with ⟨-, e⟩ | ⟨-, ⟨_, -, e⟩ | ⟨_, d, -, e⟩⟩ <;> rw [e] <;> first | rfl | (unfold writeDecoded; split <;> rfl)

@[simp] theorem rdmDecode_cfg (s : State) : (rdmDecode s).cfg = s.cfg := by rw [rdmDecode_frame s]
@[simp] theorem rdmDecode_attached (s : State) : (rdmDecode s).attached = s.attached := by rw [rdmDecode_frame s]
@[simp] theorem rdmDecode_port (s : State) : (rdmDecode s).port = s.port := by rw [rdmDecode_frame s]
@[simp] theorem rdmDecode_tn (s : State) : (rdmDecode s).tn = s.tn := by rw [rdmDecode_frame s]
@[simp] theorem rdmDecode_irqd (s : State) : (rdmDecode s).irqd = s.irqd := by rw [rdmDecode_frame s]
@[simp] theorem rdmDecode_de (s : State) : (rdmDecode s).de = s.de := by rw [rdmDecode_frame s]
@[simp] theorem rdmDecode_env (s : State) : (rdmDecode s).env = s.env := by rw [rdmDecode_frame s]

/-! ### The dispatcher's own transactions -/

/-- A read of a flag register changes only the bus and `FIRST_RX`. -/
theorem readFlagRegister_frame (a : Byte) (s : State) :
    (readFlagRegister a s).2 = s ∨ ∃ n, (readFlagRegister a s).2 = busXfer (a :: padding n) s := by
  unfold readFlagRegister
  cases checkRead s.cfg a (tableLength s.cfg a) with
  | error e => exact .inl rfl
  | ok n =>
    refine .inr ⟨n, ?_⟩
    simp only [memRead]
    cases readData a n s <;> rfl

/-- A write-back changes only the bus and `FIRST_RX`. -/
theorem writeBack_frame (a : Byte) (v : Nat) (s : State) :
    writeBack a v s = s ∨ ∃ n, writeBack a v s = busXfer ((0x40 ||| a) :: beBytes n v) s := by
  unfold writeBack
  by_cases hv : v = 0
  · simp [hv]
  · cases checkWrite s.cfg a (tableLength s.cfg a) with
    | error e => simp [hv]
    | ok n => exact .inr ⟨n, by simp [hv, memWrite, writeCommand]⟩

@[simp] theorem readFlagRegister_irqd (a : Byte) (s : State) : (readFlagRegister a s).2.irqd = s.irqd := by
  rcases readFlagRegister_frame a s with e | ⟨_, e⟩ <;> simp [e]

@[simp] theorem readFlagRegister_cfg (a : Byte) (s : State) : (readFlagRegister a s).2.cfg = s.cfg := by
  rcases readFlagRegister_frame a s with e | ⟨_, e⟩ <;> simp [e]

@[simp] theorem writeBack_irqd (a : Byte) (v : Nat) (s : State) : (writeBack a v s).irqd = s.irqd := by
  rcases writeBack_frame a v s with e | ⟨_, e⟩ <;> simp [e]

@[simp] theorem writeBack_cfg (a : Byte) (v : Nat) (s : State) : (writeBack a v s).cfg = s.cfg := by
  rcases writeBack_frame a v s with e | ⟨_, e⟩ <;> simp [e]

/-! ### The five steps of a pass: only the dispatcher, the bus, `STATUS`, `ERR_INFO` and `FIRST_RX` change -/

theorem stepRdflags_frame (s : State) : stepRdflags s =
    { s with irqd := (stepRdflags s).irqd, res := (stepRdflags s).res, env := (stepRdflags s).env } := by
  unfold stepRdflags
  have h := readFlagRegister_frame s.cfg.irqFlagsAddr s
  revert h
  cases readFlagRegister s.cfg.irqFlagsAddr s with
  | mk r t => intro h; cases r <;> rcases h with h | ⟨_, h⟩ <;> (simp only at h; subst h; rfl)

@[simp] theorem stepRdflags_cfg (s : State) : (stepRdflags s).cfg = s.cfg := by rw [stepRdflags_frame s]
@[simp] theorem stepRdflags_attached (s : State) : (stepRdflags s).attached = s.attached := by rw [stepRdflags_frame s]
@[simp] theorem stepRdflags_port (s : State) : (stepRdflags s).port = s.port := by rw [stepRdflags_frame s]
@[simp] theorem stepRdflags_f (s : State) : (stepRdflags s).f = s.f := by rw [stepRdflags_frame s]
@[simp] theorem stepRdflags_dec (s : State) : (stepRdflags s).dec = s.dec := by rw [stepRdflags_frame s]
@[simp] theorem stepRdflags_tn (s : State) : (stepRdflags s).tn = s.tn := by rw [stepRdflags_frame s]
@[simp] theorem stepRdflags_de (s : State) : (stepRdflags s).de = s.de := by rw [stepRdflags_frame s]

theorem stepRdext_frame (s : State) : stepRdext s =
    { s with irqd := (stepRdext s).irqd, res := (stepRdext s).res, env := (stepRdext s).env } := by
  unfold stepRdext
  have h := readFlagRegister_frame s.cfg.extIrqFlagsAddr s
  revert h
  cases readFlagRegister s.cfg.extIrqFlagsAddr s with
  | mk r t => intro h; cases r <;> rcases h with h | ⟨_, h⟩ <;> (simp only at h; subst h; rfl)

@[simp] theorem stepRdext_cfg (s : State) : (stepRdext s).cfg = s.cfg := by rw [stepRdext_frame s]
@[simp] theorem stepRdext_attached (s : State) : (stepRdext s).attached = s.attached := by rw [stepRdext_frame s]
@[simp] theorem stepRdext_port (s : State) : (stepRdext s).port = s.port := by rw [stepRdext_frame s]
@[simp] theorem stepRdext_f (s : State) : (stepRdext s).f = s.f := by rw [stepRdext_frame s]
@[simp] theorem stepRdext_dec (s : State) : (stepRdext s).dec = s.dec := by rw [stepRdext_frame s]
@[simp] theorem stepRdext_tn (s : State) : (stepRdext s).tn = s.tn := by rw [stepRdext_frame s]
@[simp] theorem stepRdext_de (s : State) : (stepRdext s).de = s.de := by rw [stepRdext_frame s]

theorem stepDispatch_frame (s : State) : stepDispatch s =
    { s with irqd := (stepDispatch s).irqd, res := (stepDispatch s).res, env := (stepDispatch s).env } := by
  unfold stepDispatch; split <;> rfl

@[simp] theorem stepDispatch_cfg (s : State) : (stepDispatch s).cfg = s.cfg := by rw [stepDispatch_frame s]
@[simp] theorem stepDispatch_attached (s : State) : (stepDispatch s).attached = s.attached := by rw [stepDispatch_frame s]
@[simp] theorem stepDispatch_port (s : State) : (stepDispatch s).port = s.port := by rw [stepDispatch_frame s]
@[simp] theorem stepDispatch_f (s : State) : (stepDispatch s).f = s.f := by rw [stepDispatch_frame s]
@[simp] theorem stepDispatch_dec (s : State) : (stepDispatch s).dec = s.dec := by rw [stepDispatch_frame s]
@[simp] theorem stepDispatch_tn (s : State) : (stepDispatch s).tn = s.tn := by rw [stepDispatch_frame s]
@[simp] theorem stepDispatch_de (s : State) : (stepDispatch s).de = s.de := by rw [stepDispatch_frame s]

theorem stepWbext_frame (s : State) : stepWbext s =
    { s with irqd := (stepWbext s).irqd, res := (stepWbext s).res, env := (stepWbext s).env } := by
  unfold stepWbext
  rcases writeBack_frame s.cfg.extIrqFlagsAddr (wbExt s.cfg s.irqd) s with e | ⟨_, e⟩ <;> simp only [e, busXfer]

@[simp] theorem stepWbext_cfg (s : State) : (stepWbext s).cfg = s.cfg := by rw [stepWbext_frame s]
@[simp] theorem stepWbext_attached (s : State) : (stepWbext s).attached = s.attached := by rw [stepWbext_frame s]
@[simp] theorem stepWbext_port (s : State) : (stepWbext s).port = s.port := by rw [stepWbext_frame s]
@[simp] theorem stepWbext_f (s : State) : (stepWbext s).f = s.f := by rw [stepWbext_frame s]
@[simp] theorem stepWbext_dec (s : State) : (stepWbext s).dec = s.dec := by rw [stepWbext_frame s]
@[simp] theorem stepWbext_tn (s : State) : (stepWbext s).tn = s.tn := by rw [stepWbext_frame s]
@[simp] theorem stepWbext_de (s : State) : (stepWbext s).de = s.de := by rw [stepWbext_frame s]

theorem stepWbflags_frame (s : State) : stepWbflags s =
    { s with irqd := (stepWbflags s).irqd, res := (stepWbflags s).res, env := (stepWbflags s).env } := by
  unfold stepWbflags
  rcases writeBack_frame s.cfg.irqFlagsAddr (wbFlags s.cfg s.irqd) s with e | ⟨_, e⟩ <;> (rw [e]; rfl)

@[simp] theorem stepWbflags_cfg (s : State) : (stepWbflags s).cfg = s.cfg := by rw [stepWbflags_frame s]
@[simp] theorem stepWbflags_attached (s : State) : (stepWbflags s).attached = s.attached := by rw [stepWbflags_frame s]
@[simp] theorem stepWbflags_port (s : State) : (stepWbflags s).port = s.port := by rw [stepWbflags_frame s]
@[simp] theorem stepWbflags_f (s : State) : (stepWbflags s).f = s.f := by rw [stepWbflags_frame s]
@[simp] theorem stepWbflags_dec (s : State) : (stepWbflags s).dec = s.dec := by rw [stepWbflags_frame s]
@[simp] theorem stepWbflags_tn (s : State) : (stepWbflags s).tn = s.tn := by rw [stepWbflags_frame s]
@[simp] theorem stepWbflags_de (s : State) : (stepWbflags s).de = s.de := by rw [stepWbflags_frame s]

/-! ### What a failed or abandoned range leaves (R246) -/

/-- `collision` changes the discovery engine only. -/
theorem collision_frame {s t : State} (h : collision s = .next t) : t = { s with de := t.de } := by
  rcases collision_next h with ⟨-, -, rfl⟩ | ⟨-, -, rfl⟩ | ⟨-, -, rfl⟩
  · rfl
  · rw [abandonUid_eq]; rfl
  · rfl

/-- A response event changes the discovery engine only. -/
theorem deliverEvent_frame {e : RespEvent} {s t : State} (h : deliverEvent e s = .next t) : t = { s with de := t.de } := by
  unfold deliverEvent at h
  split at h
  · split at h
    · cases h; rfl
    · cases e
      · cases h; rfl
      · exact collision_frame (s := noteEvent .collision s) h
      · cases h; rfl
  · split at h
    · cases h; rfl
    · cases h; cases e <;> rfl
  all_goals cases h; rfl

/-! ### Requests -/

/-- Asking for a cancel (R233). -/
theorem requestCancel_eq (s : State) : requestCancel s = { s with de := { s.de with cancelReq := s.de.cancelReq || decide (s.de.ds ≠ .idle) } } := by
  unfold requestCancel
  by_cases h : s.de.ds = .idle <;> simp [h]
  rw [← h]

/-- What sending a branch request does (R240), or unwinding before it (R253). -/
theorem branchTx_eq (s : State) : branchTx s =
    if s.de.cancelReq then cancelPass s else
      let win := requestWindow s 0xFFFFFFFFFFFF s.cfg.pids.discUniqueBranch
        (beBytes 6 s.de.curLo.toNat ++ beBytes 6 s.de.curHi.toNat)
      { s with
        tn := s.tn + 1
        env := envAfter (0x92 :: win) s
        res := { s.res with firstRx := firstRxAfter (0x92 :: win) s }
        de := { s.de with dbuf := s.de.dbuf.writeBytes 0 (win.take s.cfg.dbufCap), ds := .branchWait } } := by
  simp only [branchTx, sendRequest_eq, inWindow_branchRequest, setDs]

/-- What sending a mute does (R248, R260), or unwinding before it. -/
theorem muteTx_eq (s : State) : muteTx s =
    if s.de.cancelReq then cancelPass s else
      let win := requestWindow s s.de.isoUid s.cfg.pids.discMute []
      { s with
        tn := s.tn + 1
        env := envAfter (0x92 :: win) s
        res := { s.res with firstRx := firstRxAfter (0x92 :: win) s }
        de := { s.de with
          dbuf := s.de.dbuf.writeBytes 0 (win.take s.cfg.dbufCap)
          conf := listAfter s.cfg.confCap s.de.conf s.de.isoUid
          discOvf := ovfAfter s.cfg.confCap s.de.conf s.de.isoUid s.de.discOvf
          ds := .muteWait } } := by
  simp only [muteTx, recordUid_eq, sendRequest_eq, inWindow_muteRequest, setDs]

/-- What sending the un-mute does, and the end of the pass (R251, R252). -/
theorem unmuteTx_eq (s : State) : unmuteTx s =
    let win := requestWindow s 0xFFFFFFFFFFFF s.cfg.pids.discUnMute []
    { s with
      tn := s.tn + 1
      env := envAfter (0x92 :: win) s
      res := { s.res with firstRx := firstRxAfter (0x92 :: win) s }
      de := { s.de with
        dbuf := s.de.dbuf.writeBytes 0 (win.take s.cfg.dbufCap)
        conf := if s.de.cancelling then [] else s.de.conf
        abnd := if s.de.cancelling then [] else s.de.abnd
        discOvf := if s.de.cancelling then false else s.de.discOvf
        discStatus := if s.de.cancelling then .cancelled else .done
        sp := 0, cancelling := false, cancelReq := false, ds := .idle } } := by
  rw [unmuteTx, sendRequest_eq, inWindow_unmuteRequest]
  generalize requestWindow s 0xFFFFFFFFFFFF s.cfg.pids.discUnMute [] = win
  simp only [finishPass]

/-- The three requests of the DE change the bus, `FIRST_RX`, `TN` and the discovery engine only. -/
theorem branchTx_frame (s : State) : branchTx s =
    { s with tn := (branchTx s).tn, res := (branchTx s).res, de := (branchTx s).de, env := (branchTx s).env } := by
  unfold branchTx
  split <;> rfl

theorem muteTx_frame (s : State) : muteTx s =
    { s with tn := (muteTx s).tn, res := (muteTx s).res, de := (muteTx s).de, env := (muteTx s).env } := by
  unfold muteTx
  rw [recordUid_eq]
  split <;> rfl

theorem unmuteTx_frame (s : State) : unmuteTx s =
    { s with tn := (unmuteTx s).tn, res := (unmuteTx s).res, de := (unmuteTx s).de, env := (unmuteTx s).env } := rfl

@[simp] theorem branchTx_cfg (s : State) : (branchTx s).cfg = s.cfg := by rw [branchTx_frame]
@[simp] theorem branchTx_attached (s : State) : (branchTx s).attached = s.attached := by rw [branchTx_frame]
@[simp] theorem branchTx_irqd (s : State) : (branchTx s).irqd = s.irqd := by rw [branchTx_frame]
@[simp] theorem branchTx_port (s : State) : (branchTx s).port = s.port := by rw [branchTx_frame]
@[simp] theorem muteTx_cfg (s : State) : (muteTx s).cfg = s.cfg := by rw [muteTx_frame]
@[simp] theorem muteTx_attached (s : State) : (muteTx s).attached = s.attached := by rw [muteTx_frame]
@[simp] theorem muteTx_irqd (s : State) : (muteTx s).irqd = s.irqd := by rw [muteTx_frame]
@[simp] theorem muteTx_port (s : State) : (muteTx s).port = s.port := by rw [muteTx_frame]
@[simp] theorem unmuteTx_cfg (s : State) : (unmuteTx s).cfg = s.cfg := rfl
@[simp] theorem unmuteTx_attached (s : State) : (unmuteTx s).attached = s.attached := rfl
@[simp] theorem unmuteTx_irqd (s : State) : (unmuteTx s).irqd = s.irqd := rfl
@[simp] theorem unmuteTx_port (s : State) : (unmuteTx s).port = s.port := rfl

end Sys2Proof.Machine
end

