-- ==== Sys2Proof/Laws/PerInstr.lean ====
section
/-! SUPPORT. Statements made of every instruction, one lemma per constructor: its encoding lies in its row of the opcode table. -/

namespace Sys2Proof.Laws

/-- One row of spec/opcode_table.json: the space its words are read in, their width, and the bits that are fixed. -/
structure TableRow where
  format  : Format
  width   : Nat
  mask    : Nat
  pattern : Nat
  deriving DecidableEq, Repr

/-- The row of each instruction, copied from spec/opcode_table.json (R92, R100, R122). -/
def tableRow : Instr → TableRow
  | .busRdreg _ => ⟨.bus, 8, 0xC0, 0x00⟩
  | .busWrreg _ => ⟨.bus, 8, 0xC0, 0x40⟩
  | .busRddmx => ⟨.bus, 8, 0xFF, 0x81⟩
  | .busRdasc => ⟨.bus, 8, 0xFF, 0x82⟩
  | .busRdrdm => ⟨.bus, 8, 0xFF, 0x83⟩
  | .busFwblk1 => ⟨.bus, 8, 0xFF, 0x8E⟩
  | .busFwblk2 => ⟨.bus, 8, 0xFF, 0x8F⟩
  | .busWrdmx => ⟨.bus, 8, 0xFF, 0x91⟩
  | .busWrrdm => ⟨.bus, 8, 0xFF, 0x92⟩
  | .busNop => ⟨.bus, 8, 0xFF, 0xFF⟩
  | .attach => ⟨.host, 8, 0xFF, 0x00⟩
  | .detach => ⟨.host, 8, 0xFF, 0x01⟩
  | .nop => ⟨.host, 8, 0xFF, 0x02⟩
  | .rdreg => ⟨.host, 8, 0xFF, 0x03⟩
  | .wrreg => ⟨.host, 8, 0xFF, 0x04⟩
  | .rddmx => ⟨.host, 8, 0xFF, 0x05⟩
  | .rdasc => ⟨.host, 8, 0xFF, 0x06⟩
  | .rdrdm => ⟨.host, 8, 0xFF, 0x07⟩
  | .wrdmx => ⟨.host, 8, 0xFF, 0x08⟩
  | .wrrdm => ⟨.host, 8, 0xFF, 0x09⟩
  | .fwblk1 => ⟨.host, 8, 0xFF, 0x0A⟩
  | .fwblk2 => ⟨.host, 8, 0xFF, 0x0B⟩
  | .rdmenc => ⟨.host, 8, 0xFF, 0x0C⟩
  | .rdmdec => ⟨.host, 8, 0xFF, 0x0D⟩
  | .poll => ⟨.host, 8, 0xFF, 0x0E⟩
  | .hret => ⟨.host, 8, 0xFF, 0x0F⟩
  | .discstart => ⟨.host, 8, 0xFF, 0x10⟩
  | .disccancel => ⟨.host, 8, 0xFF, 0x11⟩
  | .discUniqueBranch => ⟨.rdm, 24, 0xFFFFFF, 0x100001⟩
  | .discMute => ⟨.rdm, 24, 0xFFFFFF, 0x100002⟩
  | .discUnMute => ⟨.rdm, 24, 0xFFFFFF, 0x100003⟩

/-- The space of a word. -/
def wordFormat : CodeWord → Format
  | .bus _ => .bus
  | .host _ => .host
  | .rdm _ => .rdm

/-- The bits of a word, as a number. -/
def wordBits : CodeWord → Nat
  | .bus c => c.toNat
  | .host h => h.toNat
  | .rdm r => r.toNat

/-- The encoding of an instruction is a word of its row: of its space and width, with the row's fixed bits. -/
def Row.Statement (i : Instr) : Prop :=
  wordFormat (encode i) = (tableRow i).format ∧ wordBits (encode i) < 2 ^ (tableRow i).width
    ∧ wordBits (encode i) &&& (tableRow i).mask = (tableRow i).pattern

theorem Row.busRdreg (a : BitVec 6) : Row.Statement (.busRdreg a) :=
  ⟨rfl, (show ∀ a, wordBits (encode (.busRdreg a)) < 2 ^ 8 by decide) a,
    (show ∀ a, wordBits (encode (.busRdreg a)) &&& 0xC0 = 0x00 by decide) a⟩
theorem Row.busWrreg (a : BitVec 6) : Row.Statement (.busWrreg a) :=
  ⟨rfl, (show ∀ a, wordBits (encode (.busWrreg a)) < 2 ^ 8 by decide) a,
    (show ∀ a, wordBits (encode (.busWrreg a)) &&& 0xC0 = 0x40 by decide) a⟩
theorem Row.busRddmx : Row.Statement .busRddmx := by unfold Row.Statement; decide
theorem Row.busRdasc : Row.Statement .busRdasc := by unfold Row.Statement; decide
theorem Row.busRdrdm : Row.Statement .busRdrdm := by unfold Row.Statement; decide
theorem Row.busFwblk1 : Row.Statement .busFwblk1 := by unfold Row.Statement; decide
theorem Row.busFwblk2 : Row.Statement .busFwblk2 := by unfold Row.Statement; decide
theorem Row.busWrdmx : Row.Statement .busWrdmx := by unfold Row.Statement; decide
theorem Row.busWrrdm : Row.Statement .busWrrdm := by unfold Row.Statement; decide
theorem Row.busNop : Row.Statement .busNop := by unfold Row.Statement; decide
theorem Row.attach : Row.Statement .attach := by unfold Row.Statement; decide
theorem Row.detach : Row.Statement .detach := by unfold Row.Statement; decide
theorem Row.nop : Row.Statement .nop := by unfold Row.Statement; decide
theorem Row.rdreg : Row.Statement .rdreg := by unfold Row.Statement; decide
theorem Row.wrreg : Row.Statement .wrreg := by unfold Row.Statement; decide
theorem Row.rddmx : Row.Statement .rddmx := by unfold Row.Statement; decide
theorem Row.rdasc : Row.Statement .rdasc := by unfold Row.Statement; decide
theorem Row.rdrdm : Row.Statement .rdrdm := by unfold Row.Statement; decide
theorem Row.wrdmx : Row.Statement .wrdmx := by unfold Row.Statement; decide
theorem Row.wrrdm : Row.Statement .wrrdm := by unfold Row.Statement; decide
theorem Row.fwblk1 : Row.Statement .fwblk1 := by unfold Row.Statement; decide
theorem Row.fwblk2 : Row.Statement .fwblk2 := by unfold Row.Statement; decide
theorem Row.rdmenc : Row.Statement .rdmenc := by unfold Row.Statement; decide
theorem Row.rdmdec : Row.Statement .rdmdec := by unfold Row.Statement; decide
theorem Row.poll : Row.Statement .poll := by unfold Row.Statement; decide
theorem Row.hret : Row.Statement .hret := by unfold Row.Statement; decide
theorem Row.discstart : Row.Statement .discstart := by unfold Row.Statement; decide
theorem Row.disccancel : Row.Statement .disccancel := by unfold Row.Statement; decide
theorem Row.discUniqueBranch : Row.Statement .discUniqueBranch := by unfold Row.Statement; decide
theorem Row.discMute : Row.Statement .discMute := by unfold Row.Statement; decide
theorem Row.discUnMute : Row.Statement .discUnMute := by unfold Row.Statement; decide

end Sys2Proof.Laws
end

