-- ==== Sys2Proof/Laws/Step.lean ====
section
/-! SUPPORT. What an instruction and a step can do, said once: the body of every instruction, the cases of `exec`, of a turn and of `step`, and the induction that lifts a property to every step. -/

namespace Sys2Proof.Machine

/-- What an instruction does to the state once it is accepted; the three requests need no acceptance. -/
def accepted (i : Instr) (t : State) : State :=
  match i with
  | .rdreg => readRegister t.port.a0 t.port.len.toNat t
  | .wrreg => writeRegister t.port.a0 t.port.len.toNat t
  | .busRdreg a => readRegister (a.zeroExtend 8) (tableLength t.cfg (a.zeroExtend 8)) t
  | .busWrreg a => writeRegister (a.zeroExtend 8) (tableLength t.cfg (a.zeroExtend 8)) t
  | .nop | .busNop => noOperation t
  | .rddmx | .busRddmx => readWindow 0x81 t.cfg.lenRddmx t
  | .rdasc | .busRdasc => readWindow 0x82 t.cfg.lenRdasc t
  | .rdrdm | .busRdrdm => readWindow 0x83 t.cfg.lenRdrdm t
  | .wrdmx => checkedWrite 0x91 t.cfg.lenWrdmx t
  | .wrrdm => checkedWrite 0x92 t.cfg.lenWrrdm t
  | .fwblk1 => checkedWrite 0x8E t.cfg.lenFwblk1 t
  | .fwblk2 => checkedWrite 0x8F t.cfg.lenFwblk2 t
  | .busWrdmx => writeWindow 0x91 t.cfg.lenWrdmx t
  | .busWrrdm => writeWindow 0x92 t.cfg.lenWrrdm t
  | .busFwblk1 => writeWindow 0x8E t.cfg.lenFwblk1 t
  | .busFwblk2 => writeWindow 0x8F t.cfg.lenFwblk2 t
  | .rdmenc => rdmEncode t
  | .rdmdec => rdmDecode t
  | .poll => pollBody t
  | .hret => returnFromHandler t
  | .attach => attachBody t
  | .detach => detachBody t
  | .discstart => startDiscovery t
  | .disccancel => complete (requestCancel t)
  | .discUniqueBranch => if t.de.ds = .branchTx then branchTx t else t
  | .discMute => if t.de.ds = .muteTx then muteTx t else t
  | .discUnMute => if t.de.ds = .unmuteTx then unmuteTx t else t

/-- No instruction writes the configuration. -/
@[simp] theorem accepted_cfg (i : Instr) (s : State) : (accepted i s).cfg = s.cfg := by
  cases i <;> simp only [accepted] <;> first
    | rfl
    | simp; done
    | (unfold pollBody; split <;> rfl)
    | (rw [requestCancel_eq]; rfl)
    | (split <;> simp)

/-- Only POLL, HRET, ATTACH and DETACH write the dispatcher's registers. -/
theorem accepted_irqd (i : Instr) (s : State) (h : i ≠ .poll ∧ i ≠ .hret ∧ i ≠ .attach ∧ i ≠ .detach) :
    (accepted i s).irqd = s.irqd := by
  cases i <;> simp only [accepted] <;> first
    | rfl
    | (simp at h; done)
    | (simp; done)
    | (rw [requestCancel_eq]; rfl)
    | (split <;> simp)

/-- Only ATTACH and DETACH write the handle. -/
theorem accepted_attached (i : Instr) (s : State) (h : i ≠ .attach ∧ i ≠ .detach) : (accepted i s).attached = s.attached := by
  cases i <;> simp only [accepted] <;> first
    | rfl
    | (simp at h; done)
    | (simp; done)
    | (unfold pollBody; split <;> rfl)
    | (rw [requestCancel_eq]; rfl)
    | (split <;> simp)

/-- Only ATTACH, DISCSTART, DISCCANCEL and the three requests write the discovery engine's registers. -/
theorem accepted_de (i : Instr) (s : State)
    (h : opClass i ≠ none ∧ i ≠ .attach ∧ i ≠ .discstart ∧ i ≠ .disccancel) :
    (accepted i s).de = s.de := by
  cases i <;> simp only [accepted] <;> first
    | rfl
    | (simp [opClass] at h; done)
    | simp
    | (unfold pollBody; split <;> rfl)

/-- An instruction of a class is accepted by the table of R300; a DETACH in DISCOVERY mode asks for a cancel besides (R323). -/
theorem exec_eq_accepting {i : Instr} {k : OpClass} (s : State) (hk : opClass i = some k) :
    exec i s = if i = .detach ∧ portColumn s = .discovery then .next (requestCancel s) else accepting k (accepted i) s := by
  cases i <;> cases hk <;> first | rfl | (simp only [exec, execDetach, true_and]; rfl)

/-- The three requests of the DE run without acceptance. -/
theorem exec_eq_request {i : Instr} (s : State) (hk : opClass i = none) : exec i s = .next (accepted i s) := by
  cases i <;> first | rfl | cases hk

/-- Everything an instruction can do: it runs, is held, is dropped, or, for DETACH in DISCOVERY mode, asks for a cancel. -/
theorem exec_next {i : Instr} {s t : State} (h : exec i s = .next t) :
    (∃ k, opClass i = some k ∧ acceptance k (portColumn s) = .accept ∧ t = accepted i (dropOffer s))
      ∨ (opClass i = none ∧ t = accepted i s)
      ∨ t = s ∨ t = dropOffer s ∨ (i = .detach ∧ portColumn s = .discovery ∧ t = requestCancel s) := by
  cases hk : opClass i with
  | none =>
    rw [exec_eq_request s hk] at h
    cases h
    exact .inr (.inl ⟨rfl, rfl⟩)
  | some k =>
    rw [exec_eq_accepting s hk] at h
    split at h
    next hd =>
      cases h
      exact .inr (.inr (.inr (.inr ⟨hd.1, hd.2, rfl⟩)))
    next =>
      rcases accepting_next h with ⟨ha, rfl⟩ | ⟨-, rfl⟩ | ⟨-, rfl⟩
      · exact .inl ⟨k, rfl, ha, rfl⟩
      · simp
      · simp

/-- The host port executes the operation offered, or drops a selector that selects none, or finds nothing to do. -/
theorem portTurn_next {s t : State} (h : portTurn s = .next t) :
    (∃ i, s.port.offered = true ∧ selected s.cfg.selectors s.port.hop = some i ∧ exec i s = .next t)
      ∨ (s.port.offered = true ∧ selected s.cfg.selectors s.port.hop = none ∧ t = dropOffer s)
      ∨ (s.port.offered = false ∧ t = s) := by
  unfold portTurn at h
  split at h
  next ho =>
    split at h
    next i hd => exact .inl ⟨i, ho, hd, h⟩
    next hd => cases h; exact .inr (.inl ⟨ho, hd, rfl⟩)
  next ho => cases h; exact .inr (.inr ⟨by simpa using ho, rfl⟩)

/-- A step checks the configuration and makes one move: the next act of the script, or a turn. -/
theorem step_next {s t : State} (h : step s = .next t) :
    s.cfg.wf = true ∧
      ((∃ a rest, s.env.script = a :: rest ∧ applyAct a (withScript rest s) = .next t)
        ∨ (s.env.script = [] ∧ (portTurn s = .next t ∨ seqTurn s = .next t))) := by
  unfold step at h
  split at h
  next hw =>
    refine ⟨hw, ?_⟩
    unfold move at h
    split at h
    next a rest hs => exact .inl ⟨a, rest, hs, h⟩
    next hs =>
      split at h
      · exact .inr ⟨hs, .inl h⟩
      · exact .inr ⟨hs, .inr h⟩
  next => cases h

theorem step_act {s : State} {a : Act} {rest : List Act} (hw : s.cfg.wf = true) (hs : NextAct a rest s) :
    step s = applyAct a (withScript rest s) := by
  simp only [NextAct] at hs
  simp only [step, hw, if_true, move, hs]

/-- A property that the configuration and the bodies keep is kept by every step. Each hypothesis is one thing a step can do. -/
theorem step_preserves {P : State → Prop}
    (script : ∀ rest s, P s → P (withScript rest s))
    (run : ∀ i s, P s → s.cfg.wf = true → (∀ k, opClass i = some k → acceptance k (portColumn s) = .accept) → P (accepted i s))
    (drop : ∀ s, P s → P (dropOffer s))
    (cancel : ∀ s, P s → P (requestCancel s))
    (write : ∀ w s t, P s → s.cfg.wf = true → hostWrite w s = .next t → P t)
    (offer : ∀ h s, P s → P { s with port := { s.port with hop := h, offered := true } })
    (irq : ∀ s, P s → P (irqAssert s))
    (event : ∀ e s t, P s → s.cfg.wf = true → deliverEvent e s = .next t → P t)
    (reset : ∀ s, P s → s.cfg.wf = true → P (externalReset s))
    (environment : ∀ s trx, P s → P { s with env := { s.env with trx := trx } })
    (dispatcher : ∀ s, P s → s.cfg.wf = true →
      (s.irqd.iq = .rdflags → P (stepRdflags s)) ∧ (s.irqd.iq = .rdext → P (stepRdext s))
        ∧ (s.irqd.iq = .dispatch → P (stepDispatch s)) ∧ (s.irqd.iq = .wbext → P (stepWbext s))
        ∧ (s.irqd.iq = .wbflags → P (stepWbflags s)))
    (pop : ∀ s, P s → s.cfg.wf = true → s.irqd.iq = .idle → s.de.ds = .pop → P (stepPop s))
    (branchRx : ∀ s t, P s → s.cfg.wf = true → s.irqd.iq = .idle → s.de.ds = .branchRx → stepBranchRx s = .next t → P t)
    (muteRx : ∀ s, P s → s.cfg.wf = true → s.irqd.iq = .idle → s.de.ds = .muteRx → P (stepMuteRx s))
    (unwind : ∀ s, P s → s.cfg.wf = true → s.de.cancelReq = true → (s.de.ds = .branchWait ∨ s.de.ds = .muteWait) → P (cancelPass s))
    {s t : State} (hP : P s) (h : step s = .next t) : P t := by
  have hexec : ∀ i s t, P s → s.cfg.wf = true → exec i s = .next t → P t := by
    intro i s t hP hw h
    rcases exec_next h with ⟨k, hk, ha, rfl⟩ | ⟨hk, rfl⟩ | rfl | rfl | ⟨-, -, rfl⟩
    · refine run i (dropOffer s) (drop s hP) hw fun k' hk' => ?_
      rw [hk] at hk'
      cases hk'
      exact ha
    · exact run i s hP hw (by simp [hk])
    · exact hP
    · exact drop s hP
    · exact cancel s hP
  have hport : ∀ s t, P s → s.cfg.wf = true → portTurn s = .next t → P t := by
    intro s t hP hw h
    rcases portTurn_next h with ⟨i, -, -, h⟩ | ⟨-, -, rfl⟩ | ⟨-, rfl⟩
    · exact hexec i s t hP hw h
    · exact drop s hP
    · exact hP
  have hwait : ∀ s t, P s → s.cfg.wf = true → (s.de.ds = .branchWait ∨ s.de.ds = .muteWait) → stepWait s = .next t → P t := by
    intro s t hP hw hd h
    unfold stepWait at h
    split at h
    next hc =>
      cases h
      exact unwind s hP hw hc hd
    next =>
      split at h
      · exact event _ _ t (environment s s.env.trx.clearEvent hP) hw h
      · cases h
        exact hP
  have hseq : ∀ s t, P s → s.cfg.wf = true → seqTurn s = .next t → P t := by
    intro s t hP hw h
    obtain ⟨d1, d2, d3, d4, d5⟩ := dispatcher s hP hw
    unfold seqTurn at h
    split at h
    next hi => cases h; exact d1 hi
    next hi => cases h; exact d2 hi
    next hi => cases h; exact d3 hi
    next hi => cases h; exact d4 hi
    next hi => cases h; exact d5 hi
    next => cases h; exact hP
    next hi =>
      unfold discTurn at h
      split at h
      next => cases h; exact hP
      next hd => cases h; exact pop s hP hw hi hd
      next => exact hexec _ s t hP hw h
      next hd => exact hwait s t hP hw (.inl hd) h
      next hd => exact branchRx s t hP hw hi hd h
      next => exact hexec _ s t hP hw h
      next hd => exact hwait s t hP hw (.inr hd) h
      next hd => cases h; exact muteRx s hP hw hi hd
      next => exact hexec _ s t hP hw h
  obtain ⟨hw, ⟨a, rest, hs, h⟩ | ⟨-, h | h⟩⟩ := step_next h
  · have hP' := script rest s hP
    have hw' : (withScript rest s).cfg.wf = true := hw
    cases a with
    | port => exact hport _ t hP' hw' h
    | seq => exact hseq _ t hP' hw' h
    | write w => exact write w _ t hP' hw' h
    | offer hop => cases h; exact offer hop _ hP'
    | withdraw => cases h; exact drop _ hP'
    | irqAssert => cases h; exact irq _ hP'
    | event e => exact event e _ t hP' hw' h
    | reset => cases h; exact reset _ hP' hw'
    | envReg r v => cases h; exact environment _ _ hP'
    | envRegOr r v => cases h; exact environment _ _ hP'
    | envWin c v => cases h; exact environment _ _ hP'
  · exact hport s t hP hw h
  · exact hseq s t hP hw h

end Sys2Proof.Machine
end

