-- ==== Sys2Proof/Tests/Slice0.lean ====
section
/-! SUPPORT. Tests: words written out from the tables, one ill-formed configuration for each check, single steps with the values of spec/95_test_vectors.md, and a witness for the hypotheses of every statement. -/

-- Each test is checked before the next begins: many at once would need more threads than the check allows.
set_option Elab.async false

namespace Sys2Proof.Tests

open Sys2Proof.Machine

/-! ### Helpers -/

/-- After reset, with a transceiver that answers nothing by itself. -/
def quiet : State := State.resetWith Cfg.ref { bus := [], trx := .script [], script := [] }

/-- Mode NORMAL with a handle. -/
def normal : State := { quiet with attached := true }

/-- The next transactions are answered with these bytes. -/
def answered (replies : List (List Byte)) (s : State) : State := { s with env := { s.env with trx := .script replies } }

/-- The acts still to come. -/
def acting (acts : List Act) (s : State) : State := { s with env := { s.env with script := acts } }

/-- The operand registers. -/
def operands (a0 : Byte) (len : Nat) (obuf : List Byte) (s : State) : State :=
  { s with port := { s.port with a0 := a0, len := BitVec.ofNat 16 len, obuf := Memory.writeBytes [] 0 obuf } }

/-- An operation on offer. -/
def offering (hop : Byte) (s : State) : State := { s with port := { s.port with hop := hop, offered := true } }

/-- The dispatcher in a state. -/
def inIq (i : Iq) (s : State) : State := { s with irqd := { s.irqd with iq := i } }

/-- The discovery engine in a state, with its status. -/
def inDs (d : Ds) (s : State) : State := { s with de := { s.de with ds := d, discStatus := .running } }

/-- A call-out of the dispatcher to a handler. -/
def called (pend : BitVec 4) (h : BitVec 2) (s : State) : State :=
  { s with irqd := { s.irqd with iq := .call, pend := pend, hcall := h } }

/-- The range being probed. -/
def ranged (lo hi : Uid) (s : State) : State := { s with de := { s.de with curLo := lo, curHi := hi } }

/-- What is seen of the next state, if there is one. -/
def seen {α : Type} (r : Result) (f : State → α) : Option α :=
  match r with
  | .next t => some (f t)
  | _ => none

/-- The status, the length of the result and its first bytes. -/
def result (n : Nat) (s : State) : Status × Nat × List Byte := (s.res.status, s.res.rlen.toNat, s.res.rbuf.readBytes 0 n)

/-- The bytes sent, newest transaction first. -/
def sent (s : State) : List (List Byte) := s.env.bus.map (·.tx)

/-- RPC-D1 of spec/95_test_vectors.md. -/
def frameD1 : List Byte :=
  [0xCC, 0x01, 0x1A, 0x4C, 0x55, 0x00, 0x00, 0x00, 0x01, 0x00, 0x01, 0x00, 0x00, 0x00, 0x01, 0x2A, 0x00, 0x00, 0x00, 0x00,
   0x21, 0x00, 0xF0, 0x02, 0x00, 0x01, 0x02, 0xC9]

/-- RPC-D3: a NACK with reason 6. -/
def frameD3 : List Byte :=
  [0xCC, 0x01, 0x1A, 0x4C, 0x55, 0x00, 0x00, 0x00, 0x01, 0x00, 0x01, 0x00, 0x00, 0x00, 0x01, 0x2A, 0x02, 0x00, 0x00, 0x00,
   0x21, 0x00, 0xF0, 0x02, 0x00, 0x06, 0x02, 0xD0]

/-- RPC-D12: an ACK_TIMER with one byte of parameter data. -/
def frameD12 : List Byte :=
  [0xCC, 0x01, 0x19, 0x4C, 0x55, 0x00, 0x00, 0x00, 0x01, 0x00, 0x01, 0x00, 0x00, 0x00, 0x01, 0x2A, 0x01, 0x00, 0x00, 0x00,
   0x21, 0x00, 0xF0, 0x01, 0x00, 0x02, 0xC7]

/-- DE-C1: the frame of a branch response from 000100000001. -/
def frameC1 : List Byte :=
  [0xCC, 0x01, 0x18, 0x4C, 0x55, 0x00, 0x00, 0x00, 0x01, 0x00, 0x01, 0x00, 0x00, 0x00, 0x01, 0x30, 0x00, 0x00, 0x00, 0x00,
   0x11, 0x00, 0x01, 0x00, 0x01, 0xCB]

/-- RPC-E1, RPC-E2, RPC-E3: the three requests of the DE. -/
def frameE1 : List Byte :=
  [0xCC, 0x01, 0x24, 0xFF, 0xFF, 0xFF, 0xFF, 0xFF, 0xFF, 0x4C, 0x55, 0x00, 0x00, 0x00, 0x01, 0x00, 0x01, 0x00, 0x00, 0x00,
   0x10, 0x00, 0x01, 0x0C, 0x00, 0x00, 0x00, 0x00, 0x00, 0x00, 0xFF, 0xFF, 0xFF, 0xFF, 0xFF, 0xFF, 0x0D, 0xA5]
def frameE2 : List Byte :=
  [0xCC, 0x01, 0x18, 0x00, 0x01, 0x00, 0x00, 0x00, 0x01, 0x4C, 0x55, 0x00, 0x00, 0x00, 0x01, 0x01, 0x01, 0x00, 0x00, 0x00,
   0x10, 0x00, 0x02, 0x00, 0x01, 0x9D]
def frameE3 : List Byte :=
  [0xCC, 0x01, 0x18, 0xFF, 0xFF, 0xFF, 0xFF, 0xFF, 0xFF, 0x4C, 0x55, 0x00, 0x00, 0x00, 0x01, 0x02, 0x01, 0x00, 0x00, 0x00,
   0x10, 0x00, 0x03, 0x00, 0x07, 0x97]

/-! ### Decoding: one word for every constructor, from the encodings of R92, R100 and R122 -/

theorem test_decode_bus :
    decodeBus 0b00110100 = .ok (.busRdreg 0x34) ∧ decodeBus 0b01110100 = .ok (.busWrreg 0x34)
    ∧ decodeBus 0b10000001 = .ok .busRddmx ∧ decodeBus 0b10000010 = .ok .busRdasc ∧ decodeBus 0b10000011 = .ok .busRdrdm
    ∧ decodeBus 0b10001110 = .ok .busFwblk1 ∧ decodeBus 0b10001111 = .ok .busFwblk2
    ∧ decodeBus 0b10010001 = .ok .busWrdmx ∧ decodeBus 0b10010010 = .ok .busWrrdm ∧ decodeBus 0b11111111 = .ok .busNop := by
  decide

theorem test_decode_host :
    decodeHost 0b00000000 = .ok .attach ∧ decodeHost 0b00000001 = .ok .detach ∧ decodeHost 0b00000010 = .ok .nop
    ∧ decodeHost 0b00000011 = .ok .rdreg ∧ decodeHost 0b00000100 = .ok .wrreg ∧ decodeHost 0b00000101 = .ok .rddmx
    ∧ decodeHost 0b00000110 = .ok .rdasc ∧ decodeHost 0b00000111 = .ok .rdrdm ∧ decodeHost 0b00001000 = .ok .wrdmx
    ∧ decodeHost 0b00001001 = .ok .wrrdm ∧ decodeHost 0b00001010 = .ok .fwblk1 ∧ decodeHost 0b00001011 = .ok .fwblk2
    ∧ decodeHost 0b00001100 = .ok .rdmenc ∧ decodeHost 0b00001101 = .ok .rdmdec ∧ decodeHost 0b00001110 = .ok .poll
    ∧ decodeHost 0b00001111 = .ok .hret ∧ decodeHost 0b00010000 = .ok .discstart ∧ decodeHost 0b00010001 = .ok .disccancel := by
  decide

theorem test_decode_rdm :
    decodeRdm 0b000100000000000000000001 = .ok .discUniqueBranch ∧ decodeRdm 0b000100000000000000000010 = .ok .discMute
    ∧ decodeRdm 0b000100000000000000000011 = .ok .discUnMute := by
  decide

theorem test_decode_rejects_by_name :
    decodeBus 0x84 = .error (.unassignedCommandByte 0x84) ∧ decodeHost 0x12 = .error (.unassignedSelector 0x12)
    ∧ decodeRdm 0x200060 = .error (.noDiscoveryRequest 0x200060) := by
  decide

theorem test_decodeTableWord :
    decodeTableWord 8 0x34 = some (.busRdreg 0x34) ∧ decodeTableWord 8 0x11 = some .disccancel
    ∧ decodeTableWord 8 0x84 = none ∧ decodeTableWord 24 0x100002 = some .discMute ∧ decodeTableWord 16 0 = none := by
  decide

/-! ### Well-formed configurations: the reference one, and one ill-formed for each check of R9 -/

theorem test_ref_wf : Cfg.ref.wf = true := by decide

theorem test_wf_duplicateAddress :
    Cfg.addressesUnique { Cfg.ref with regtab := ⟨0x00, 2, true, true, .other 0⟩ :: Cfg.refRegtab } = false := by decide
theorem test_wf_addressTooHigh :
    Cfg.addressesInRange { Cfg.ref with regtab := ⟨0x40, 1, true, true, .other 0⟩ :: Cfg.refRegtab } = false := by decide
theorem test_wf_lengthZero :
    Cfg.lengthsInRange { Cfg.ref with regtab := ⟨0x3F, 0, true, true, .other 0⟩ :: Cfg.refRegtab } = false := by decide
theorem test_wf_lengthAboveBuffer :
    Cfg.lengthsInRange { Cfg.ref with regtab := ⟨0x3F, 513, true, true, .other 0⟩ :: Cfg.refRegtab } = false := by decide
theorem test_wf_sameFlagRegisters : Cfg.flagRegistersUsable { Cfg.ref with extIrqFlagsAddr := 0x03 } = false := by decide
theorem test_wf_flagRegisterReadOnly :
    Cfg.flagRegistersUsable { Cfg.ref with irqFlagsAddr := 0x05 } = false
    ∧ Cfg.flagRegistersUsable { Cfg.ref with extIrqFlagsAddr := 0x21 } = false := by decide
theorem test_wf_sameFlagBits :
    Cfg.flagBitsUsable { Cfg.ref with bDmxChanged := 3 } = false ∧ Cfg.flagBitsUsable { Cfg.ref with bDmxChanged := 6 } = false
    ∧ Cfg.flagBitsUsable { Cfg.ref with bRfLink := 6 } = false ∧ Cfg.flagBitsUsable { Cfg.ref with bSpiRdm := 1 } = false := by decide
theorem test_wf_flagBitOutside :
    Cfg.flagBitsUsable { Cfg.ref with bExtended := 8 } = false ∧ Cfg.flagBitsUsable { Cfg.ref with bSpiRdm := 32 } = false := by decide
theorem test_wf_rdmWindows :
    Cfg.rdmWindowsLargeEnough { Cfg.ref with lenWrrdm := 37 } = false
    ∧ Cfg.rdmWindowsLargeEnough { Cfg.ref with lenRdrdm := 25 } = false := by decide
theorem test_wf_stack : Cfg.stackLargeEnough { Cfg.ref with stackCap := 48 } = false := by decide
theorem test_wf_ownUid :
    Cfg.ownUidUsable { Cfg.ref with ownUid := 0 } = false ∧ Cfg.ownUidUsable { Cfg.ref with ownUid := 0xFFFFFFFFFFFF } = false := by decide
theorem test_wf_types :
    Cfg.typesRespected { Cfg.ref with lenFwblk2 := 0 } = false
    ∧ Cfg.typesRespected { Cfg.ref with regtab := [⟨0x3F, 4294967296, true, true, .other 0⟩] } = false := by decide
/-- R9 sets no bound on `BUF_CAP` but the longest register. -/
theorem test_wf_smallBuffer : Cfg.wf { Cfg.ref with bufCap := 11 } = true ∧ Cfg.wf { Cfg.ref with bufCap := 10 } = false := by decide

/-! ### Single steps, with the values of spec/95_test_vectors.md -/

/-- RAL-4: the byte order is kept. -/
theorem test_rdreg_order :
    seen (exec .rdreg (answered [[0x00, 0x4C, 0x55, 0x12, 0x34, 0x56, 0x78]] (operands 0x20 6 [] normal))) (fun t => (result 6 t, sent t))
      = some ((.ok, 6, [0x4C, 0x55, 0x12, 0x34, 0x56, 0x78]), [[0x20, 0xFF, 0xFF, 0xFF, 0xFF, 0xFF, 0xFF]]) := by decide +kernel

/-- RAL-19: a driver that returns one byte of two. -/
theorem test_rdreg_shortReply :
    seen (exec .rdreg (answered [[0x00]] (operands 0x00 1 [] normal))) (fun t => (t.res.status, sent t))
      = some (.failed .lengthMismatch, [[0x00, 0xFF]]) := by decide +kernel

/-- RAL-12: a write-only register can be written. -/
theorem test_wrreg_writeOnly :
    seen (exec .wrreg (operands 0x21 8 [1, 2, 3, 4, 5, 6, 7, 8] normal)) (fun t => (t.res.status, sent t))
      = some (.ok, [[0x61, 1, 2, 3, 4, 5, 6, 7, 8]]) := by decide +kernel

/-- RAL-11: the direction is checked before the length. -/
theorem test_wrreg_direction :
    seen (exec .wrreg (operands 0x05 1 [0] normal)) (fun t => (t.res.status, sent t)) = some (.failed .accessDenied, []) := by decide +kernel

/-- RAL-17. -/
theorem test_nop :
    seen (exec .nop (answered [[0x00]] normal)) (fun t => (t.res.status, t.res.firstRx, sent t)) = some (.ok, 0x00, [[0xFF]]) := by decide +kernel
theorem test_busNop : seen (exec .busNop (answered [[0x5A]] normal)) (fun t => (t.res.firstRx, sent t)) = some (0x5A, [[0xFF]]) := by decide +kernel

/-- RAL-18, by its command byte. -/
theorem test_busRdreg :
    seen (exec (.busRdreg 0x34) (answered [[0x00, 1, 2, 3, 4]] normal)) (fun t => (result 4 t, sent t))
      = some ((.ok, 4, [1, 2, 3, 4]), [[0x34, 0xFF, 0xFF, 0xFF, 0xFF]]) := by decide +kernel

/-- RAL-1, by its command byte. -/
theorem test_busWrreg :
    seen (exec (.busWrreg 0x00) (operands 0 0 [0x5A] normal)) (fun t => (t.res.status, sent t)) = some (.ok, [[0x40, 0x5A]]) := by decide +kernel

/-- FC-1, FC-2, FC-3: the windows' sizes. -/
theorem test_bulkReads :
    seen (exec .rddmx (answered [List.replicate 513 7] normal)) (fun t => (t.res.rlen.toNat, t.res.rbuf.read 511, (sent t).map (·.length))) = some (512, 7, [513])
    ∧ seen (exec .rdasc (answered [List.replicate 129 7] normal)) (fun t => (t.res.rlen.toNat, t.res.rbuf.read 127, (sent t).map (·.length))) = some (128, 7, [129])
    ∧ seen (exec .rdrdm (answered [List.replicate 257 7] normal)) (fun t => (t.res.rlen.toNat, t.res.rbuf.read 255, (sent t).map (·.length))) = some (256, 7, [257]) := by
  decide +kernel

/-- FC-13: a driver that returns 200 bytes. -/
theorem test_rdrdm_shortReply :
    seen (exec .rdrdm (answered [List.replicate 200 7] normal)) (result 1) = some (.failed .frameLengthError, 0, [0]) := by decide +kernel

theorem test_bulkReadCommands :
    seen (exec .busRddmx (answered [List.replicate 513 7] normal)) (fun t => (sent t).map (·.take 2)) = some [[0x81, 0xFF]]
    ∧ seen (exec .busRdasc (answered [List.replicate 129 7] normal)) (fun t => (sent t).map (·.take 2)) = some [[0x82, 0xFF]]
    ∧ seen (exec .busRdrdm (answered [List.replicate 257 7] normal)) (fun t => (sent t).map (·.take 2)) = some [[0x83, 0xFF]] := by
  decide +kernel

/-- FC-5, FC-8, FC-12: a wrong length. -/
theorem test_bulkWrites_wrongLength :
    seen (exec .wrdmx (operands 0 511 [] normal)) (fun t => (t.res.status, sent t)) = some (.failed .frameLengthError, [])
    ∧ seen (exec .wrrdm (operands 0 26 frameE2 normal)) (fun t => (t.res.status, sent t)) = some (.failed .frameLengthError, [])
    ∧ seen (exec .fwblk1 (operands 0 255 [] normal)) (fun t => (t.res.status, sent t)) = some (.failed .frameLengthError, [])
    ∧ seen (exec .fwblk2 (operands 0 17 [] normal)) (fun t => (t.res.status, sent t)) = some (.failed .frameLengthError, []) := by
  decide +kernel

/-- FC-4, FC-9, FC-10, FC-11: what is sent. -/
theorem test_bulkWrites_sent :
    seen (exec .wrdmx (operands 0 512 [9] normal)) (fun t => (sent t).map fun x => (x.take 3, x.length)) = some [([0x91, 9, 0], 513)]
    ∧ seen (exec .wrrdm (operands 0 256 [9] normal)) (fun t => (sent t).map fun x => (x.take 3, x.length)) = some [([0x92, 9, 0], 257)]
    ∧ seen (exec .fwblk1 (operands 0 254 [9] normal)) (fun t => (sent t).map fun x => (x.take 3, x.length)) = some [([0x8E, 9, 0], 255)]
    ∧ seen (exec .fwblk2 (operands 0 18 [9] normal)) (fun t => (sent t).map fun x => (x.take 3, x.length)) = some [([0x8F, 9, 0], 19)] := by
  decide +kernel

theorem test_bulkWriteCommands :
    seen (exec .busWrdmx (operands 0 0 [9] normal)) (fun t => (sent t).map fun x => (x.take 2, x.length)) = some [([0x91, 9], 513)]
    ∧ seen (exec .busWrrdm (operands 0 0 [9] normal)) (fun t => (sent t).map fun x => (x.take 2, x.length)) = some [([0x92, 9], 257)]
    ∧ seen (exec .busFwblk1 (operands 0 0 [9] normal)) (fun t => (sent t).map fun x => (x.take 2, x.length)) = some [([0x8E, 9], 255)]
    ∧ seen (exec .busFwblk2 (operands 0 0 [9] normal)) (fun t => (sent t).map fun x => (x.take 2, x.length)) = some [([0x8F, 9], 19)] := by
  decide +kernel

/-- RPC-E5: every field of the frame distinct. -/
theorem test_rdmenc_fields :
    seen (exec .rdmenc { operands 0 2 [0x01, 0x00] normal with
        f := { ml := 0, dest := 0x123456789ABC, src := 0xFEDCBA987654, tn := 0xFF, portRt := 0x03, mc := 0x05, subdev := 0xFFFF,
               cc := 0x30, pid := 0x00F0, pdl := 0, cksum := 0 } }) (result 28)
      = some (.ok, 28, [0xCC, 0x01, 0x1A, 0x12, 0x34, 0x56, 0x78, 0x9A, 0xBC, 0xFE, 0xDC, 0xBA, 0x98, 0x76, 0x54, 0xFF, 0x03, 0x05,
          0xFF, 0xFF, 0x30, 0x00, 0xF0, 0x02, 0x01, 0x00, 0x0B, 0x6F]) := by decide +kernel

/-- RPC-E9: `AUTO_TN` takes the counter, which wraps. -/
theorem test_rdmenc_autoTn :
    seen (exec .rdmenc { operands 1 0 [] normal with tn := 0xFF }) (fun t => (t.f.tn, t.tn)) = some (0xFF, 0x00) := by decide +kernel

/-- RPC-D1. -/
theorem test_rdmdec_ack :
    seen (exec .rdmdec (operands 0 28 frameD1 normal)) (fun t => (result 2 t, t.f, t.dec))
      = some ((.ok, 2, [0x00, 0x01]),
          { ml := 0x1A, dest := 0x4C5500000001, src := 0x000100000001, tn := 0x2A, portRt := 0, mc := 0, subdev := 0, cc := 0x21,
            pid := 0x00F0, pdl := 2, cksum := 0x02C9 }, { role := .response, kind := .ack, arg := 0 }) := by decide +kernel

/-- RPC-D3: a NACK surfaces after everything is written. -/
theorem test_rdmdec_nack :
    seen (exec .rdmdec (operands 0 28 frameD3 normal)) (fun t => (result 2 t, t.res.errInfo, t.dec.kind))
      = some ((.failed .nackReason, 2, [0x00, 0x06]), 6, .nackReason) := by decide +kernel

/-- R172: a pass starts with its flag cleared; IRQ-13: with nothing pending it does nothing. -/
theorem test_poll :
    seen (exec .poll { normal with irqd := { normal.irqd with irqPending := true, stale := true } })
      (fun t => (t.irqd.iq, t.irqd.irqPending, t.irqd.stale)) = some (.rdflags, false, false)
    ∧ seen (exec .poll normal) (fun t => (t.irqd.iq, sent t)) = some (.idle, []) := by decide +kernel

/-- IRQ-1, the second call-out returned; IRQ-16: HRET with no call-out. -/
theorem test_hret :
    seen (exec .hret (called 0b0101 2 normal)) (fun t => (t.irqd.iq, t.irqd.cons, t.res.status)) = some (.dispatch, 0b0100, .ok)
    ∧ seen (exec .hret normal) id = some normal := by decide +kernel

/-- IRQ-1, the first read: `EXTENDED` and `RF_LINK`. -/
theorem test_rdflags :
    seen (step (answered [[0x00, 0x48]] (inIq .rdflags normal))) (fun t => (t.irqd.iq, t.irqd.pend, sent t)) = some (.rdext, 0b0001, [[0x03, 0xFF]]) := by
  decide +kernel

/-- IRQ-12: the write-back never writes a bit it did not consume. -/
theorem test_wbflags :
    seen (step { normal with irqd := { normal.irqd with
        iq := .wbflags, obsFlags := 0xFF, obsExt := 0xFFFFFFFF, extRead := true, pend := 0b1111, cons := 0b1111 } }) (fun t => (t.irqd.irqPending, sent t))
      = some (false, [[0x43, 0x4C]]) := by decide +kernel

/-- MODE-4, MODE-5. -/
theorem test_attach :
    seen (exec .attach { normal with tn := 57, irqd := { normal.irqd with irqPending := true } })
      (fun t => (t.attached, t.tn, t.irqd.irqPending, t.res.status)) = some (true, 0, false, .ok) := by decide +kernel
theorem test_detach :
    seen (exec .detach { normal with tn := 57, irqd := { normal.irqd with irqPending := true } })
      (fun t => (t.attached, t.tn, t.irqd.irqPending)) = some (false, 57, false) := by decide +kernel

/-- S4: the first range. -/
theorem test_discstart :
    seen (exec .discstart (operands 1 0 [] normal)) (fun t => (t.de.ds, t.de.sp, t.de.stk.head?, t.de.unmuteAtEnd))
      = some (.pop, 1, some ⟨0, 0xFFFFFFFFFFFF⟩, true) := by decide +kernel

/-- DE-X2, and a cancel of a running pass. -/
theorem test_disccancel :
    seen (exec .disccancel normal) (fun t => (t.res.status, t.de)) = some (.ok, normal.de)
    ∧ seen (exec .disccancel (inDs .branchWait normal)) (fun t => (t.res.status, t.de.cancelReq)) = some (.ok, true) := by decide +kernel

/-- RPC-E1 in its window. -/
theorem test_discUniqueBranch :
    seen (exec .discUniqueBranch (ranged 0 0xFFFFFFFFFFFF (inDs .branchTx normal))) (fun t => (t.de.ds, t.tn, sent t))
      = some (.branchWait, 1, [0x92 :: (frameE1 ++ List.replicate 218 0xFF)]) := by decide +kernel

/-- RPC-E2 in its window; the UID is recorded. -/
theorem test_discMute :
    seen (exec .discMute { inDs .muteTx normal with tn := 1, de := { (inDs .muteTx normal).de with isoUid := 0x000100000001 } })
      (fun t => (t.de.ds, t.de.conf, sent t)) = some (.muteWait, [0x000100000001], [0x92 :: (frameE2 ++ List.replicate 230 0xFF)]) := by
  decide +kernel

/-- RPC-E3 in its window; the pass ends. -/
theorem test_discUnMute :
    seen (exec .discUnMute { inDs .unmuteTx normal with tn := 2 }) (fun t => (t.de.ds, t.de.discStatus, sent t))
      = some (.idle, .done, [0x92 :: (frameE3 ++ List.replicate 230 0xFF)]) := by decide +kernel

/-- DE-M8, DE-M5, DE-M1: the midpoint. -/
theorem test_mid :
    mid 0 0x0001FFFFFFFF = 0x0000FFFFFFFF ∧ mid 0x000100000000 0x000100000001 = 0x000100000000
    ∧ mid 0 0xFFFFFFFFFFFF = 0x7FFFFFFFFFFF := by decide

/-- DE-C1 isolates; DE-C3 is a collision. -/
theorem test_isolatedUid :
    isolatedUid (frameC1 ++ List.replicate 230 0xFF) = some 0x000100000001 ∧ isolatedUid (List.replicate 256 0xFF) = none := by
  decide +kernel

/-- A word placed with `withFetchWord` is what the next step runs, straight after reset. -/
theorem test_withFetchWord :
    seen (step (State.reset.withFetchWord 8 0x00)) (·.attached) = some true
    ∧ seen (step (State.reset.withFetchWord 8 0x8F)) (fun t => (sent t).map (·.take 1)) = some [[0x8F]]
    ∧ seen (step (State.reset.withFetchWord 24 0x100001)) (·.de.ds) = some .branchWait := by
  decide +kernel

/-! ### Witnesses: states and operands that meet the hypotheses of the statements, each clause at a boundary -/

theorem test_normal_inNormal : InNormal normal := ⟨rfl, rfl, rfl⟩
theorem test_called_inCall (p : BitVec 4) (k : BitVec 2) : InCall (called p k normal) := ⟨rfl, rfl⟩
theorem test_discovery_inDiscovery : InDiscovery (inDs .branchWait normal) := ⟨rfl, rfl, by decide⟩
theorem test_stepping_inStepping : InStepping (inIq .rdflags normal) := ⟨rfl, by decide, by decide⟩

/-- Both ways to accept an ordinary operation. -/
theorem test_witness_acceptsOrdinary : AcceptsOrdinary normal ∧ AcceptsOrdinary (called 0b0001 0 normal) :=
  ⟨.inl test_normal_inNormal, .inr (test_called_inCall _ _)⟩

/-- Sound buffers, with something written in one. -/
theorem test_witness_buffersSound : BuffersSound normal ∧ BuffersSound (operands 0x20 6 [1, 2] normal) := by
  unfold BuffersSound
  decide

theorem test_witness_EncodeOfDecode :
    decode (.bus 0x7F) = .ok (.busWrreg 0x3F) ∧ decode (.host 0x11) = .ok .disccancel ∧ decode (.rdm 0x100003) = .ok .discUnMute := by
  decide

/-- The last selector that selects, the first that does not, and the default turn. -/
theorem test_witness_StepRunsOfferedOperation :
    normal.cfg.wf = true ∧ (acting [.port] (offering 0x11 normal)).port.offered = true
    ∧ NextAct .port [] (acting [.port] (offering 0x11 normal)) ∧ selected normal.cfg.selectors 0x11 = some .disccancel
    ∧ portReady (offering 0x00 normal) = true ∧ selected normal.cfg.selectors 0x00 = some .attach
    ∧ NextAct .port [] (acting [.port] (offering 0x12 normal)) ∧ selected normal.cfg.selectors 0x12 = none :=
  ⟨test_ref_wf, rfl, rfl, by decide, by decide, by decide, rfl, by decide⟩

/-- Other selectors than the reference ones: the last operation gets the number 0x40, and 0x11 selects nothing. -/
theorem test_selectors_are_parameters :
    let n := { Cfg.ref.selectors with disccancel := 0x40 }
    selected n 0x40 = some .disccancel ∧ selected n 0x11 = none ∧ selected n 0x10 = some .discstart := by
  decide

/-- Other numbers of a status, a handler and an event than the reference ones. -/
theorem test_codes_are_parameters :
    let c := { Cfg.ref with
      statusCodes := { Cfg.ref.statusCodes with timeout := 0x70 }
      handlerIds := ⟨3, 2, 1, 0⟩
      eventCodes := { Cfg.ref.eventCodes with avail := 3 } }
    let s := { called 0b0001 0 normal with
      cfg := c
      res := { normal.res with status := .failed .timeout }
      de := { normal.de with lastEv := some .avail } }
    hostRead .status s = some 0x70 ∧ hostRead .hcall s = some 3 ∧ hostRead .pend s = some 8 ∧ hostRead .lastEv s = some 3 := by
  decide +kernel

/-- What has no value is not read: an entry beyond its count, a byte of `OBUF` that does not exist (R58; logs 16, 27). -/
theorem test_hostRead_beyond :
    let s := { normal with de := { normal.de with conf := [0x000100000001] } }
    hostRead (.conf 0) s = some 0x000100000001 ∧ hostRead (.conf 1) s = none ∧ hostRead (.abnd 0) s = none
    ∧ hostRead (.obuf 511) s = some 0 ∧ hostRead (.obuf 512) s = none := by
  decide +kernel

theorem test_witness_StepRunsDiscoveryRequest : ∀ d ∈ [Ds.branchTx, .muteTx, .unmuteTx],
    (acting [.seq] (inDs d normal)).irqd.iq = .idle ∧ NextAct .seq [] (acting [.seq] (inDs d normal))
    ∧ (acting [.seq] (inDs d normal)).de.ds = d :=
  fun _ _ => ⟨rfl, rfl, rfl⟩

/-- One ill-formed configuration for each kind of breach named in the statement. -/
theorem test_witness_IllFormedConfigurationRefused :
    (¬ ((⟨0x00, 2, true, true, .other 0⟩ :: Cfg.refRegtab).map (·.address)).Nodup)
    ∧ (∃ r ∈ (⟨0x40, 1, true, true, .other 0⟩ :: Cfg.refRegtab), 0x3F < r.address.toNat)
    ∧ (∃ r ∈ (⟨0x3F, 513, true, true, .other 0⟩ :: Cfg.refRegtab), r.length = 0 ∨ Cfg.ref.bufCap < r.length)
    ∧ readWrite { Cfg.ref with irqFlagsAddr := 0x05 } 0x05 = false
    ∧ 8 * lenIrqFlags Cfg.ref ≤ 8 ∧ 8 * lenExtIrqFlags Cfg.ref ≤ 32 ∧ (37 < 38) ∧ (25 < 26) ∧ (48 < 49)
    ∧ ({ Cfg.ref with lenRdasc := 0 } : Cfg).lenRdasc = 0 ∧ 2 ^ 32 ≤ (⟨0x3F, 4294967296, true, true, .other 0⟩ : RegisterInfo).length := by
  decide +kernel

/-- No row at the highest address, a write-only row, a wrong length, a wrong and a right number of bytes back. -/
theorem test_witness_RdregOutcomes :
    lookup normal.cfg 0x3F = none ∧ (lookup normal.cfg 0x21).map (·.readable) = some false
    ∧ (lookup normal.cfg 0x20).map (fun r => (r.readable, r.length)) = some (true, 6)
    ∧ (operands 0x20 5 [] normal).port.len.toNat ≠ 6 ∧ (operands 0x20 6 [] normal).port.len.toNat = 6
    ∧ (busReply (answered [List.replicate 6 0] normal) (0x20 :: padding 6)).length ≠ 6 + 1
    ∧ (busReply (answered [List.replicate 7 0] normal) (0x20 :: padding 6)).length = 6 + 1 := by
  decide

theorem test_witness_WrregOutcomes :
    lookup normal.cfg 0xC3 = none ∧ (lookup normal.cfg 0x10).map (·.writable) = some false
    ∧ (lookup normal.cfg 0x12).map (fun r => (r.writable, r.length)) = some (true, 11)
    ∧ (operands 0x12 12 [] normal).port.len.toNat ≠ 11 ∧ (operands 0x12 11 [] normal).port.len.toNat = 11 := by
  decide

theorem test_witness_RegisterCommandOutcomes :
    lookup normal.cfg ((0x3F : BitVec 6).zeroExtend 8) = none
    ∧ (lookup normal.cfg ((0x21 : BitVec 6).zeroExtend 8)).map (·.readable) = some false
    ∧ (lookup normal.cfg ((0x10 : BitVec 6).zeroExtend 8)).map (·.writable) = some false
    ∧ (lookup normal.cfg ((0x34 : BitVec 6).zeroExtend 8)).map (fun r => (r.readable, r.writable, r.length)) = some (true, true, 4)
    ∧ (busReply (answered [List.replicate 4 0] normal) (0x34 :: padding 4)).length ≠ 4 + 1
    ∧ (busReply (answered [List.replicate 5 0] normal) (0x34 :: padding 4)).length = 4 + 1 := by
  decide

theorem test_witness_BulkReadOutcomes :
    (busReply (answered [List.replicate 128 0] normal) (0x82 :: padding 128)).length ≠ normal.cfg.lenRdasc + 1
    ∧ (busReply (answered [List.replicate 129 0] normal) (0x82 :: padding 128)).length = normal.cfg.lenRdasc + 1 := by
  decide +kernel

theorem test_witness_FixedCommandOutcomes :
    (busReply (answered [List.replicate 128 0] normal) (0x82 :: padding 128)).length ≠ normal.cfg.lenRdasc + 1
    ∧ (busReply (answered [List.replicate 129 0] normal) (0x82 :: padding 128)).length = normal.cfg.lenRdasc + 1
    ∧ BuffersSound (answered [List.replicate 129 0] normal) ∧ AcceptsOrdinary normal :=
  ⟨test_witness_BulkReadOutcomes.1, test_witness_BulkReadOutcomes.2, test_witness_buffersSound.1, test_witness_acceptsOrdinary.1⟩

theorem test_witness_BulkWriteOutcomes :
    (operands 0 19 [] normal).port.len.toNat ≠ normal.cfg.lenFwblk2 ∧ (operands 0 18 [] normal).port.len.toNat = normal.cfg.lenFwblk2
    ∧ normal.cfg.lenFwblk2 ≤ normal.cfg.bufCap ∧ ({ Cfg.ref with bufCap := 17 } : Cfg).bufCap < Cfg.ref.lenFwblk2 := by
  decide

theorem test_witness_RdmencOutcomes :
    230 < (operands 0 231 [] normal).port.len.toNat ∧ (operands 0 230 [] normal).port.len.toNat ≤ 230
    ∧ 230 ≤ normal.cfg.bufCap ∧ ({ Cfg.ref with bufCap := 229 } : Cfg).bufCap < (operands 0 230 [] normal).port.len.toNat := by
  decide

/-- A length beyond the buffer, no frame, a timer response without its argument, a response and a NACK. -/
theorem test_witness_RdmdecOutcomes :
    normal.cfg.bufCap < (operands 0 513 [] normal).port.len.toNat ∧ (operands 0 512 [] normal).port.len.toNat ≤ normal.cfg.bufCap
    ∧ frameParse (obufBytes (operands 0 0 [] normal) 0) = some .badStartCode
    ∧ frameParse (obufBytes (operands 0 27 frameD12 normal) 27) = none
    ∧ kindOf Cfg.ref.rts (roleOf (messageOf frameD12).cc) (messageOf frameD12).prt (frameData frameD12) = .error .lengthMismatch
    ∧ frameParse (obufBytes (operands 0 28 frameD3 normal) 28) = none
    ∧ kindOf Cfg.ref.rts (roleOf (messageOf frameD3).cc) (messageOf frameD3).prt (frameData frameD3) = .ok (.nackReason, 6) := by
  decide +kernel

theorem test_witness_FrameRoundTrip : (List.replicate 230 (0xFF : Byte)).length ≤ 230 :=
  Nat.le_of_eq List.length_replicate

/-- The offsets that tell the failures apart, on a frame that parses. -/
theorem test_witness_SingleByteChangeDetected :
    frameParse frameC1 = none ∧ ∀ i ∈ [0, 1, 2, 3, 22, 23, 24, 25], i < frameC1.length ∧ byteAt frameC1 i + 1 ≠ byteAt frameC1 i := by
  decide

theorem test_witness_ChecksumIsByteSum : (List.replicate 254 (0xFF : Byte)).length ≤ 254 :=
  Nat.le_of_eq List.length_replicate

theorem test_witness_RoleAndKindTables :
    MsgRole.unknown ≠ .response ∧ ([0x06] : List Byte).length < 2 ∧ 2 ≤ ([0x00, 0x06] : List Byte).length
    ∧ (0x03 ≠ Cfg.ref.rts.ack ∧ 0x03 = Cfg.ref.rts.ackOverflow)
    ∧ (0x01 ∉ [Cfg.ref.rts.ack, Cfg.ref.rts.ackOverflow] ∧ 0x01 = Cfg.ref.rts.ackTimer)
    ∧ (0x02 ∉ [Cfg.ref.rts.ack, Cfg.ref.rts.ackOverflow, Cfg.ref.rts.ackTimer] ∧ 0x02 = Cfg.ref.rts.nackReason)
    ∧ 0x04 ∉ [Cfg.ref.rts.ack, Cfg.ref.rts.ackOverflow, Cfg.ref.rts.ackTimer, Cfg.ref.rts.nackReason] := by
  decide

theorem test_witness_BigEndianInverse : 255 < 256 ^ 1 ∧ 0xFFFFFFFFFFFF < 256 ^ 6 ∧ 0 < 256 ^ 0 := by decide

/-- The four ways not to be in mode NORMAL. -/
theorem test_witness_notNormal :
    ¬ InNormal quiet ∧ ¬ InNormal (called 0b0001 0 normal) ∧ ¬ InNormal (inIq .rdflags normal) ∧ ¬ InNormal (inDs .branchWait normal) := by
  unfold InNormal
  decide

theorem test_witness_PollOutcomes :
    InNormal normal ∧ normal.irqd.irqPending = false ∧ InNormal { normal with irqd := { normal.irqd with irqPending := true } }
    ∧ ¬ InNormal (called 0b0001 0 normal) :=
  ⟨test_normal_inNormal, rfl, ⟨rfl, rfl, rfl⟩, test_witness_notNormal.2.1⟩

theorem test_witness_HretConsumesFlag : InCall (called 0b1000 3 normal) ∧ ¬ InCall normal :=
  ⟨test_called_inCall _ _, fun h => nomatch h.2⟩

theorem test_witness_IrqFlagsRead :
    (acting [.seq] (inIq .rdflags normal)).irqd.iq = .rdflags ∧ NextAct .seq [] (acting [.seq] (inIq .rdflags normal))
    ∧ (busReply (answered [[0]] normal) (0x03 :: padding 1)).length ≠ lenIrqFlags normal.cfg + 1
    ∧ (busReply (answered [[0, 0x48]] normal) (0x03 :: padding 1)).length = lenIrqFlags normal.cfg + 1 :=
  ⟨rfl, rfl, by decide, by decide⟩

theorem test_witness_ExtFlagsRead :
    (acting [.seq] (inIq .rdext normal)).irqd.iq = .rdext ∧ NextAct .seq [] (acting [.seq] (inIq .rdext normal))
    ∧ (busReply (answered [[0, 0, 0, 0]] normal) (0x0B :: padding 4)).length ≠ lenExtIrqFlags normal.cfg + 1
    ∧ (busReply (answered [[0, 0, 0, 0, 3]] normal) (0x0B :: padding 4)).length = lenExtIrqFlags normal.cfg + 1 :=
  ⟨rfl, rfl, by decide, by decide⟩

/-- Handler 3 alone is ready; none is ready after a stale link. -/
theorem test_witness_DispatchCallsLeastEligible :
    (let d := { (inIq .dispatch normal).irqd with pend := 0b1111, cons := 0b0111 }
     eligible d 3 = true ∧ ∀ j < 3, eligible d j = false)
    ∧ (let d := { (inIq .dispatch normal).irqd with pend := 0b1111, cons := 0b0001, stale := true }
       ∀ k < 4, eligible d k = false) := by
  decide

theorem test_witness_WriteBackAndEnd :
    wbExt Cfg.ref normal.irqd = 0 ∧ wbFlags Cfg.ref normal.irqd = 0
    ∧ wbExt Cfg.ref { normal.irqd with cons := 0b1000 } = 2 ∧ wbFlags Cfg.ref { normal.irqd with cons := 0b0001 } = 8 := by
  decide

/-- A pass in its write-back, with two flags consumed. -/
theorem test_witness_WriteBackValues :
    DispatchSound Cfg.ref { normal.irqd with
      iq := .wbext, obsFlags := 0x48, obsExt := 1, extRead := true, pend := 0b0101, cons := 0b0101 } := by
  constructor <;> decide

theorem test_witness_IrqAssertEffect : NextAct .irqAssert [] (acting [.irqAssert] normal) := rfl

theorem test_witness_AttachReinitialises :
    quiet.attached = false ∧ InNormal normal
    ∧ ¬ ((inDs .branchWait normal).attached = false ∨ InNormal (inDs .branchWait normal)) :=
  ⟨rfl, test_normal_inNormal, fun h => h.elim (fun h => nomatch h) test_witness_notNormal.2.2.2⟩

theorem test_witness_DetachOutcomes :
    InNormal normal ∧ InDiscovery (inDs .branchWait normal) ∧ InCall (called 0b0001 0 normal) :=
  ⟨test_normal_inNormal, test_discovery_inDiscovery, test_called_inCall _ _⟩

theorem test_witness_DetachedRefuses : decode (.host 0x01) = .ok .detach ∧ Instr.detach ≠ .attach ∧ quiet.attached = false := by decide

theorem test_witness_DiscoveryOwnsTheBus :
    InDiscovery (inDs .branchWait normal) ∧ decode (.host 0x0F) = .ok .hret ∧ decode (.host 0x05) = .ok .rddmx :=
  ⟨test_discovery_inDiscovery, by decide, by decide⟩

theorem test_witness_DispatchGatesOperations :
    InCall (called 0b0001 0 normal) ∧ InStepping (inIq .rdflags normal) ∧ decode (.host 0x0F) = .ok .hret
    ∧ decode (.host 0x00) = .ok .attach :=
  ⟨test_called_inCall _ _, test_stepping_inStepping, by decide, by decide⟩

theorem test_witness_ExternalResetEffect : NextAct .reset [] (acting [.reset] (inDs .branchWait normal)) := rfl

theorem test_witness_DiscstartOpensWholeSpace : InNormal normal ∧ ¬ InNormal (inDs .pop normal) :=
  ⟨test_normal_inNormal, fun h => nomatch h.2.2⟩

theorem test_witness_DisccancelRequests :
    InNormal normal ∧ InCall (called 0b0001 0 normal) ∧ InDiscovery (inDs .branchWait normal) :=
  ⟨test_normal_inNormal, test_called_inCall _ _, test_discovery_inDiscovery⟩

/-- Both clauses of the requests: with and without a requested cancel. -/
theorem test_witness_requests : ∀ d ∈ [Ds.branchTx, .muteTx, .unmuteTx],
    BuffersSound (inDs d normal) ∧ (inDs d normal).de.ds = d ∧ (inDs d normal).de.cancelReq = false
    ∧ (requestCancel (inDs .branchTx normal)).de.cancelReq = true ∧ (requestCancel (inDs .muteTx normal)).de.cancelReq = true :=
  fun _ _ => ⟨test_witness_buffersSound.1, rfl, rfl, by decide, by decide⟩

/-- A cancellation clears the results, `DISC_OVF` among them (R52; log 26). -/
theorem test_cancel_clears_results :
    seen (exec .discUnMute { inDs .unmuteTx normal with
        de := { (inDs .unmuteTx normal).de with cancelling := true, discOvf := true, conf := [1], abnd := [2] } })
      (fun t => (t.de.discOvf, t.de.conf, t.de.abnd, t.de.discStatus)) = some (false, [], [], .cancelled) := by
  decide +kernel

theorem test_witness_PopTakesLastRange :
    (let s := acting [.seq] (inDs .pop normal)
     s.irqd.iq = .idle ∧ s.de.ds = .pop ∧ NextAct .seq [] s ∧ s.de.cancelReq = false ∧ s.de.sp = 0 ∧ s.de.unmuteAtEnd = false
       ∧ { s.de with unmuteAtEnd := true }.unmuteAtEnd = true)
    ∧ (requestCancel (inDs .pop normal)).de.cancelReq = true
    ∧ ({ normal.de with sp := 49 } : Disc).stk[49 - 1]? = some ⟨0, 0⟩ :=
  ⟨⟨rfl, rfl, rfl, rfl, rfl, rfl, rfl⟩, by decide, by decide⟩

/-- A range that is no leaf with the last two slots free, a leaf below its bound, and a leaf at it. -/
theorem test_witness_BranchEventOutcomes :
    (let s := acting [.event .collision] (ranged 0 1 (inDs .branchWait normal))
     s.de.ds = .branchWait ∧ s.de.cancelReq = false ∧ NextAct (.event .collision) [] s ∧ s.de.curLo ≠ s.de.curHi)
    ∧ 47 + 2 ≤ Cfg.ref.stackCap ∧ 2 < Cfg.ref.leafRetryMax ∧ Cfg.ref.leafRetryMax ≤ 3
    ∧ NextAct (.event .timeout) [] (acting [.event .timeout] (inDs .branchWait normal))
    ∧ NextAct (.event .avail) [] (acting [.event .avail] (inDs .branchWait normal))
    ∧ (∀ d ∈ [Ds.idle, .pop, .branchTx, .branchRx, .muteTx, .muteRx, .unmuteTx], d ≠ .branchWait ∧ d ≠ .muteWait
        ∧ NextAct (.event .avail) [] (acting [.event .avail] (inDs d normal))) :=
  ⟨⟨rfl, rfl, rfl, by decide⟩, by decide, by decide, by decide, rfl, rfl, fun d hd => ⟨by revert d; decide, by revert d; decide, rfl⟩⟩

/-- A window that holds the frame of a branch response, then padding. -/
def responseWindow : State :=
  answered [0x00 :: (frameC1 ++ List.replicate 230 0xFF)] (acting [.seq] (inDs .branchRx normal))

theorem test_witness_BranchResponseOutcomes_state :
    BuffersSound responseWindow ∧ responseWindow.irqd.iq = .idle ∧ responseWindow.de.ds = .branchRx
    ∧ NextAct .seq [] responseWindow :=
  ⟨test_witness_buffersSound.1, rfl, rfl, rfl⟩

theorem test_witness_BranchResponseOutcomes_reply :
    (busReply responseWindow (0x83 :: padding 256)).drop 1 = frameC1 ++ List.replicate 230 0xFF
    ∧ (busReply responseWindow (0x83 :: padding 256)).length = responseWindow.cfg.lenRdrdm + 1
    ∧ frameParse frameC1 = none ∧ be (slice frameC1 9 6) = 0x000100000001
    ∧ (busReply (answered [[0x00]] responseWindow) (0x83 :: padding 256)).length ≠ responseWindow.cfg.lenRdrdm + 1 := by
  decide +kernel

/-- A garbled window: no frame at its start parses, so every source found in it is reserved. -/
theorem test_witness_BranchResponseOutcomes_garbled :
    (busReply (answered [List.replicate 257 0xFF] responseWindow) (0x83 :: padding 256)).length = responseWindow.cfg.lenRdrdm + 1
    ∧ ∀ f tail : List Byte, (busReply (answered [List.replicate 257 0xFF] responseWindow) (0x83 :: padding 256)).drop 1 = f ++ tail →
        frameParse f ≠ none := by
  refine ⟨by decide +kernel, fun f tail h => ?_⟩
  rw [show (busReply (answered [List.replicate 257 0xFF] responseWindow) (0x83 :: padding 256)).drop 1
      = 0xFF :: List.replicate 255 0xFF from by decide +kernel] at h
  cases f with
  | nil => decide
  | cons b f => rw [← (List.cons.inj h).1]; simp [frameParse, byteAt, startCode]

/-- The other two answers to what is no response: a leaf below its bound is repeated, and one at it is abandoned. -/
theorem test_branchRx_garbled :
    seen (step (ranged 5 5 (answered [[0x00]] responseWindow))) (fun t => (t.de.ds, t.de.retry)) = some (.branchTx, 1)
    ∧ seen (step (answered [[0x00]] { ranged 5 5 responseWindow with de := { (ranged 5 5 responseWindow).de with retry := 3 } }))
        (fun t => (t.de.ds, t.de.abnd)) = some (.pop, [5]) := by
  decide +kernel

theorem test_witness_MuteAnswerDrained :
    NextAct (.event .avail) [] (acting [.event .avail] (inDs .muteWait normal)) ∧ (inDs .muteWait normal).de.cancelReq = false
    ∧ NextAct .seq [] (acting [.seq] (inDs .muteRx normal))
    ∧ (busReply (answered [[0]] normal) (0x83 :: padding 256)).length ≠ normal.cfg.lenRdrdm + 1
    ∧ (busReply (answered [List.replicate 257 0] normal) (0x83 :: padding 256)).length = normal.cfg.lenRdrdm + 1 :=
  ⟨rfl, rfl, rfl, by decide, by decide +kernel⟩

theorem test_witness_CancelEndsWaits : ∀ d ∈ [Ds.branchWait, .muteWait], ∀ a ∈ [Act.seq, .event .avail],
    NextAct a [] (acting [a] (requestCancel (inDs d normal))) ∧ (requestCancel (inDs d normal)).irqd.iq = .idle := by
  intro d hd a ha
  refine ⟨rfl, ?_⟩
  simp only [List.mem_cons, List.not_mem_nil, or_false] at hd
  rcases hd with rfl | rfl <;> decide

theorem test_witness_MidpointSplitsRange : (0 : Uid) < 1 ∧ (0 : Uid) < 0xFFFFFFFFFFFF ∧ (0xFFFFFFFFFFFE : Uid) < 0xFFFFFFFFFFFF := by decide

/-- Probing the whole space: a search in progress with one open range. -/
theorem test_witness_searchSound : SearchSound (ranged 0 0xFFFFFFFFFFFF (inDs .branchWait normal)) := by
  refine ⟨by decide, by decide, ?_, [48], ?_, ?_⟩
  · rw [show openRanges _ = [⟨0, 0xFFFFFFFFFFFF⟩] from rfl]
    simp
  · rw [show openRanges _ = [⟨0, 0xFFFFFFFFFFFF⟩] from rfl]
    simp [HasSize]
  · simp [SizesDisciplined]

theorem test_witness_modesExclusive : ModesExclusive (inDs .branchWait normal) ∧ ModesExclusive quiet := by
  unfold ModesExclusive
  decide

/-- One confirmed UID, and a leaf repeated as often as it may be. -/
theorem test_witness_resultsSound :
    ResultsSound Cfg.ref { (inDs .branchWait normal).de with conf := [0x000100000001], retry := 3 } := by
  constructor <;> simp [ListSound, Cfg.ref, inDs, muting, reservedUid, bcast, normal, quiet, State.resetWith]

/-- A transaction on record. -/
theorem test_witness_busSound :
    BusSound { normal with env := { normal.env with bus := [{ cs := 0, tx := [0x03, 0xFF], rx := [0x00, 0x48] }] } } := by
  unfold BusSound
  decide

/-- The step of the invariants: from these states it answers a next state that differs. -/
theorem test_witness_invariantSteps :
    seen (step (acting [.event .avail] (ranged 0 0xFFFFFFFFFFFF (inDs .branchWait normal)))) (·.de.ds) = some .branchRx
    ∧ seen (step (answered [[0, 0x48]] (acting [.seq] (inIq .rdflags normal)))) (·.env.bus.length) = some 1 := by
  decide +kernel

theorem test_witness_IrqPendingWriters :
    seen (exec .detach { normal with irqd := { normal.irqd with irqPending := true } }) (·.irqd.irqPending) = some false
    ∧ seen (exec .nop (answered [[0]] { normal with irqd := { normal.irqd with irqPending := true } })) (·.irqd.irqPending) = some true := by
  decide +kernel

theorem test_witness_TransactionNumberWriters :
    seen (exec .rdmenc { operands 1 0 [] normal with tn := 0xFF }) (·.tn) = some 0x00
    ∧ seen (exec .attach { normal with tn := 0xFF }) (·.tn) = some 0x00
    ∧ seen (exec .discUnMute { inDs .unmuteTx normal with tn := 0xFF }) (·.tn) = some 0x00 := by
  decide +kernel

theorem test_witness_StatusesByOperation :
    seen (exec .rdreg (operands 0x3F 1 [] normal)) (·.res.status) = some (.failed .accessDenied)
    ∧ seen (exec .rdmdec (operands 0 0 [] normal)) (·.res.status) = some (.failed .badStartCode) := by
  decide +kernel

theorem test_witness_DiscoveryTouchesNoHostRegister :
    (acting [.seq] (inDs .branchTx normal)).irqd.iq = .idle ∧ NextAct .seq [] (acting [.seq] (inDs .branchTx normal))
    ∧ seen (step (acting [.seq] (inDs .branchTx normal))) (·.de.ds) = some .branchWait :=
  ⟨rfl, rfl, by decide +kernel⟩

theorem test_witness_FailureKeepsSequencers :
    (operands 0x00 2 [] normal).res.status = .ok
    ∧ seen (exec .rdreg (operands 0x00 2 [] normal)) (·.res.status) = some (.failed .lengthMismatch) := by
  decide +kernel

end Sys2Proof.Tests
end

section
/-! SUPPORT. Big-endian bytes (R11, R69): the value of a byte sequence and the bytes of a value, each by the recursion on the length. -/

namespace Sys2Proof.Machine

@[simp] theorem be_nil : be [] = 0 := rfl

/-- Horner's rule from any start: what stands before a sequence is shifted by its length. -/
theorem foldl_be (bs : List Byte) (acc : Nat) :
    bs.foldl (fun acc b => 256 * acc + b.toNat) acc = acc * 256 ^ bs.length + be bs := by
  induction bs generalizing acc with
  | nil => simp
  | cons b bs ih =>
    rw [List.foldl_cons, ih, be.eq_def (b :: bs), List.foldl_cons, ih (256 * 0 + b.toNat), List.length_cons]
    ring

/-- The first byte is the most significant one. -/
theorem be_cons (b : Byte) (bs : List Byte) : be (b :: bs) = b.toNat * 256 ^ bs.length + be bs := by
  rw [be, List.foldl_cons, foldl_be]
  simp

theorem be_lt (bs : List Byte) : be bs < 256 ^ bs.length := by
  induction bs with
  | nil => simp
  | cons b bs ih =>
    have hb : b.toNat + 1 ≤ 256 := b.isLt
    calc be (b :: bs) = b.toNat * 256 ^ bs.length + be bs := be_cons b bs
      _ < (b.toNat + 1) * 256 ^ bs.length := by rw [Nat.succ_mul]; omega
      _ ≤ 256 ^ (b :: bs).length := by
        rw [List.length_cons, Nat.pow_succ, Nat.mul_comm (256 ^ _)]
        exact Nat.mul_le_mul_right _ hb

/-- `n` bytes hold a value modulo `256 ^ n`. -/
theorem be_beBytes (n v : Nat) : be (beBytes n v) = v % 256 ^ n := by
  induction n with
  | zero => simp [beBytes, Nat.mod_one]
  | succ n ih =>
    rw [beBytes, be_cons, ih, beBytes_length, Nat.mod_pow_succ, BitVec.toNat_ofNat]
    ring

/-- Multiples of `256 ^ n` do not show in the `n` lowest bytes. -/
theorem beBytes_mul_add (n k v : Nat) : beBytes n (k * 256 ^ n + v) = beBytes n v := by
  induction n generalizing k with
  | zero => rfl
  | succ n ih =>
    have hshift : k * 256 ^ (n + 1) + v = k * 256 * 256 ^ n + v := by ring
    have hhead : (k * 256 * 256 ^ n + v) / 256 ^ n = k * 256 + v / 256 ^ n := by
      rw [Nat.add_comm, Nat.add_mul_div_right _ _ (by positivity), Nat.add_comm]
    rw [beBytes, beBytes, hshift, ih, hhead]
    congr 1
    exact BitVec.eq_of_toNat_eq (by simp)

theorem beBytes_be (bs : List Byte) : beBytes bs.length (be bs) = bs := by
  induction bs with
  | nil => rfl
  | cons b bs ih =>
    have hhead : (b.toNat * 256 ^ bs.length + be bs) / 256 ^ bs.length = b.toNat := by
      rw [Nat.add_comm, Nat.add_mul_div_right _ _ (by positivity), Nat.div_eq_of_lt (be_lt bs), Nat.zero_add]
    rw [be_cons, List.length_cons, beBytes, hhead, beBytes_mul_add, ih, BitVec.ofNat_toNat, BitVec.setWidth_eq]

/-- Settles O21, by the recursion of `be` and `beBytes` on the number of bytes. -/
theorem bigEndianInverse : Obligations.BigEndianInverse :=
  ⟨fun n v hv => ⟨beBytes_length n v, by rw [be_beBytes, Nat.mod_eq_of_lt hv]⟩, fun bs => ⟨be_lt bs, beBytes_be bs⟩⟩

end Sys2Proof.Machine
end

section
/-! SUPPORT. What the host port runs (R101, R102). -/

namespace Sys2Proof.Machine

/-- The machine moves only with a well-formed configuration (R9). -/
theorem step_eq_move {s : State} (hw : s.cfg.wf = true) : step s = move s := if_pos hw

/-- The offered operation that `HOP` selects is executed. -/
theorem portTurn_selected {s : State} {i : Instr} (ho : s.port.offered = true)
    (hs : selected s.cfg.selectors s.port.hop = some i) : portTurn s = exec i s := by
  simp [portTurn, ho, hs]

/-- An offered value of `HOP` that selects nothing is dropped. -/
theorem portTurn_unselected {s : State} (ho : s.port.offered = true)
    (hs : selected s.cfg.selectors s.port.hop = none) : portTurn s = .next (dropOffer s) := by
  simp [portTurn, ho, hs]

/-- With nothing scripted, a host port that is ready takes the turn (log 8). -/
theorem move_portReady {s : State} (hs : s.env.script = []) (hr : portReady s = true) : move s = portTurn s := by
  simp [move, hs, hr]

/-- Settles O5: a scripted or default turn of the host port is `portTurn`, and the reference selectors are the table's. -/
theorem stepRunsOfferedOperation : Obligations.StepRunsOfferedOperation := by
  intro s hw ho
  refine ⟨fun rest i hact hsel => ?_, fun i hscript hready hsel => ?_, fun rest hact hsel => ?_, fun hcfg h i => ?_⟩
  · rw [step_act hw hact]
    exact portTurn_selected (s := withScript rest s) ho hsel
  · rw [step_eq_move hw, move_portReady hscript hready, portTurn_selected ho hsel]
  · rw [step_act hw hact]
    exact portTurn_unselected (s := withScript rest s) ho hsel
  · rw [hcfg]
    exact selected_ref h i

end Sys2Proof.Machine
end

section
/-! SUPPORT. What a machine refuses (R9): each check of R9 and R8 failed, said as the breach it finds, and that no move refuses. -/

namespace Sys2Proof.Machine

/-! ### The checks of a configuration -/

theorem addressesUnique_eq_false (c : Cfg) : c.addressesUnique = false ↔ ¬ (c.regtab.map (·.address)).Nodup := by
  simp [Cfg.addressesUnique]

theorem addressesInRange_eq_false (c : Cfg) : c.addressesInRange = false ↔ ∃ r ∈ c.regtab, 0x3F < r.address.toNat := by
  simp [Cfg.addressesInRange]

theorem lengthsInRange_eq_false (c : Cfg) :
    c.lengthsInRange = false ↔ ∃ r ∈ c.regtab, r.length = 0 ∨ c.bufCap < r.length := by
  simp [Cfg.lengthsInRange, Nat.one_le_iff_ne_zero, imp_iff_not_or]

theorem flagRegistersUsable_eq_false (c : Cfg) : c.flagRegistersUsable = false ↔
    c.irqFlagsAddr = c.extIrqFlagsAddr ∨ readWrite c c.irqFlagsAddr = false ∨ readWrite c c.extIrqFlagsAddr = false := by
  simp only [Cfg.flagRegistersUsable, Bool.and_eq_false_iff, bne_eq_false_iff_eq, or_assoc]

theorem flagBitsUsable_eq_false (c : Cfg) : c.flagBitsUsable = false ↔
    c.bDmxChanged = c.bRfLink ∨ c.bDmxChanged = c.bExtended ∨ c.bRfLink = c.bExtended ∨ c.bSpiRdm = c.bSpiRadioDisc
      ∨ (∃ b ∈ [c.bDmxChanged, c.bRfLink, c.bExtended], 8 * lenIrqFlags c ≤ b)
      ∨ (∃ b ∈ [c.bSpiRdm, c.bSpiRadioDisc], 8 * lenExtIrqFlags c ≤ b) := by
  simp only [Cfg.flagBitsUsable, decide_eq_false_iff_not, List.exists_mem_cons_iff, List.not_mem_nil, false_and, exists_false,
    or_false]
  omega

theorem rdmWindowsLargeEnough_eq_false (c : Cfg) : c.rdmWindowsLargeEnough = false ↔ c.lenWrrdm < 38 ∨ c.lenRdrdm < 26 := by
  simp only [Cfg.rdmWindowsLargeEnough, decide_eq_false_iff_not]
  omega

theorem stackLargeEnough_eq_false (c : Cfg) : c.stackLargeEnough = false ↔ c.stackCap < 49 := by
  simp [Cfg.stackLargeEnough]

theorem ownUidUsable_eq_false (c : Cfg) : c.ownUidUsable = false ↔ c.ownUid = 0 ∨ c.ownUid = 0xFFFFFFFFFFFF := by
  simp only [Cfg.ownUidUsable, reservedUid, bcast, Bool.not_eq_false', Bool.or_eq_true, beq_iff_eq]

theorem typesRespected_eq_false (c : Cfg) : c.typesRespected = false ↔
    (∃ n ∈ [c.lenRddmx, c.lenRdasc, c.lenRdrdm, c.lenWrdmx, c.lenWrrdm, c.lenFwblk1, c.lenFwblk2], n = 0)
      ∨ ∃ r ∈ c.regtab, 2 ^ 32 ≤ r.length := by
  simp only [Cfg.typesRespected, Bool.and_eq_false_iff, decide_eq_false_iff_not, List.all_eq_false, decide_eq_true_eq, not_lt,
    List.exists_mem_cons_iff, List.not_mem_nil, false_and, exists_false, or_false]
  exact or_congr (by omega) Iff.rfl

/-- A configuration is ill-formed when one of its checks fails. -/
theorem cfg_wf_eq_false (c : Cfg) : c.wf = false ↔
    c.addressesUnique = false ∨ c.addressesInRange = false ∨ c.lengthsInRange = false ∨ c.flagRegistersUsable = false
      ∨ c.flagBitsUsable = false ∨ c.rdmWindowsLargeEnough = false ∨ c.stackLargeEnough = false ∨ c.ownUidUsable = false
      ∨ c.typesRespected = false := by
  simp only [Cfg.wf, Bool.and_eq_false_iff, or_assoc]

/-! ### No move refuses -/

theorem accepting_ne_refused (k : OpClass) (run : State → State) (s : State) (r : Refusal) :
    accepting k run s ≠ .refused r := by
  cases h : acceptance k (portColumn s) with
  | accept => simp [accepting_accept h]
  | held => simp [accepting_held h]
  | refused => simp [accepting_refused h]

/-- Every instruction of the table has a meaning. -/
theorem exec_ne_refused (i : Instr) (s : State) (r : Refusal) : exec i s ≠ .refused r := by
  cases hk : opClass i with
  | none => simp [exec_eq_request s hk]
  | some k =>
    rw [exec_eq_accepting s hk]
    split
    · simp
    · exact accepting_ne_refused k _ s r

theorem portTurn_ne_refused (s : State) (r : Refusal) : portTurn s ≠ .refused r := by
  unfold portTurn
  split
  · split
    · exact exec_ne_refused _ s r
    · simp
  · simp

theorem hostWrite_ne_refused (w : HostWrite) (s : State) (r : Refusal) : hostWrite w s ≠ .refused r := by
  cases w with
  | obuf i bytes =>
    simp only [hostWrite]
    split <;> simp
  | _ => simp [hostWrite]

theorem collision_ne_refused (s : State) (r : Refusal) : collision s ≠ .refused r := by
  unfold collision
  split
  · split <;> simp
  · split <;> simp

theorem branchEvent_ne_refused (e : RespEvent) (s : State) (r : Refusal) : branchEvent e s ≠ .refused r := by
  cases e with
  | avail => simp [branchEvent]
  | timeout => simp [branchEvent]
  | collision => exact collision_ne_refused _ r

theorem deliverEvent_ne_refused (e : RespEvent) (s : State) (r : Refusal) : deliverEvent e s ≠ .refused r := by
  unfold deliverEvent
  split
  case h_1 =>
    split
    · simp
    · exact branchEvent_ne_refused e s r
  case h_2 => split <;> simp
  all_goals simp

theorem stepWait_ne_refused (s : State) (r : Refusal) : stepWait s ≠ .refused r := by
  unfold stepWait
  split
  · simp
  · split
    · exact deliverEvent_ne_refused _ _ r
    · simp

theorem stepBranchRx_ne_refused (s : State) (r : Refusal) : stepBranchRx s ≠ .refused r := by
  unfold stepBranchRx
  split
  · exact collision_ne_refused _ r
  · split
    · simp
    · exact collision_ne_refused _ r

theorem discTurn_ne_refused (s : State) (r : Refusal) : discTurn s ≠ .refused r := by
  cases hd : s.de.ds with
  | branchTx | muteTx | unmuteTx => simpa only [discTurn, hd] using exec_ne_refused _ s r
  | branchWait | muteWait => simpa only [discTurn, hd] using stepWait_ne_refused s r
  | branchRx => simpa only [discTurn, hd] using stepBranchRx_ne_refused s r
  | idle | pop | muteRx => simp [discTurn, hd]

theorem seqTurn_ne_refused (s : State) (r : Refusal) : seqTurn s ≠ .refused r := by
  cases hi : s.irqd.iq with
  | idle => simpa only [seqTurn, hi] using discTurn_ne_refused s r
  | rdflags | rdext | dispatch | call | wbext | wbflags => simp [seqTurn, hi]

theorem applyAct_ne_refused (a : Act) (s : State) (r : Refusal) : applyAct a s ≠ .refused r := by
  cases a with
  | port => exact portTurn_ne_refused s r
  | seq => exact seqTurn_ne_refused s r
  | write w => exact hostWrite_ne_refused w s r
  | event e => exact deliverEvent_ne_refused e s r
  | offer | withdraw | irqAssert | reset | envReg | envRegOr | envWin => simp [applyAct]

theorem move_ne_refused (s : State) (r : Refusal) : move s ≠ .refused r := by
  unfold move
  split
  · exact applyAct_ne_refused _ _ r
  · split
    · exact portTurn_ne_refused s r
    · exact seqTurn_ne_refused s r

/-- A step refuses for one reason only: its configuration is ill-formed (R9). -/
theorem step_refused_iff (s : State) (r : Refusal) : step s = .refused r ↔ s.cfg.wf = false ∧ r = .illFormedConfig := by
  cases hw : s.cfg.wf with
  | true => simp [step_eq_move hw, move_ne_refused]
  | false => simp [step, hw, eq_comm]

/-- Settles O7: a step refuses exactly when a check of the configuration fails, and each check fails at its breach. -/
theorem illFormedConfigurationRefused : Obligations.IllFormedConfigurationRefused := by
  refine fun s => ⟨?_, fun r hr => ((step_refused_iff s r).mp hr).2⟩
  rw [step_refused_iff, and_iff_left rfl, cfg_wf_eq_false, addressesUnique_eq_false, addressesInRange_eq_false,
    lengthsInRange_eq_false, flagRegistersUsable_eq_false, flagBitsUsable_eq_false, rdmWindowsLargeEnough_eq_false,
    stackLargeEnough_eq_false, ownUidUsable_eq_false, typesRespected_eq_false]
  simp only [or_assoc]

end Sys2Proof.Machine
end

section
/-! SUPPORT. The environment after an operation (R61, R80): each body and each sequencer step leaves it, or makes one transaction. -/

namespace Sys2Proof.Machine

/-- The environment of `t` is that of `s`, or that of `s` after one transaction. -/
def EnvAfterAtMostOne (s t : State) : Prop := t.env = s.env ∨ ∃ tx, t.env = envAfter tx s

theorem EnvAfterAtMostOne.of_eq {s t : State} (h : t.env = s.env) : EnvAfterAtMostOne s t := .inl h

theorem EnvAfterAtMostOne.of_xfer {s t : State} (tx : List Byte) (h : t.env = envAfter tx s) : EnvAfterAtMostOne s t :=
  .inr ⟨tx, h⟩

/-! ### The bodies of the instructions -/

theorem readRegister_atMostOneXfer (a : Byte) (n : Nat) (s : State) : EnvAfterAtMostOne s (readRegister a n s) := by
  rcases readRegister_cases a n s with ⟨-, e⟩ | ⟨_, -, -, ⟨-, e⟩ | ⟨-, -, e⟩ | ⟨-, -, e⟩⟩ <;> rw [e]
  · exact .of_eq rfl
  · exact .of_eq rfl
  · exact .of_xfer _ rfl
  · exact .of_xfer _ rfl

theorem writeRegister_atMostOneXfer (a : Byte) (n : Nat) (s : State) : EnvAfterAtMostOne s (writeRegister a n s) := by
  rcases writeRegister_cases a n s with ⟨-, e⟩ | ⟨_, -, -, ⟨-, e⟩ | ⟨-, e⟩⟩ <;> rw [e]
  · exact .of_eq rfl
  · exact .of_eq rfl
  · exact .of_xfer _ rfl

theorem readWindow_atMostOneXfer (cmd : Byte) (n : Nat) (s : State) : EnvAfterAtMostOne s (readWindow cmd n s) := by
  rcases readWindow_cases cmd n s with ⟨-, e⟩ | ⟨-, e⟩ <;> rw [e] <;> exact .of_xfer _ rfl

theorem writeWindow_atMostOneXfer (cmd : Byte) (n : Nat) (s : State) : EnvAfterAtMostOne s (writeWindow cmd n s) := by
  rcases writeWindow_cases cmd n s with ⟨-, e⟩ | ⟨-, e⟩ <;> rw [e]
  · exact .of_eq rfl
  · exact .of_xfer _ rfl

theorem checkedWrite_atMostOneXfer (cmd : Byte) (n : Nat) (s : State) : EnvAfterAtMostOne s (checkedWrite cmd n s) := by
  rcases checkedWrite_cases cmd n s with ⟨-, e⟩ | ⟨-, -, e⟩ <;> rw [e]
  · exact .of_eq rfl
  · exact .of_xfer _ rfl

@[simp] theorem pollBody_env (s : State) : (pollBody s).env = s.env := by
  unfold pollBody
  split <;> rfl

@[simp] theorem requestCancel_env (s : State) : (requestCancel s).env = s.env := by rw [requestCancel_eq]

@[simp] theorem requestCancel_cfg (s : State) : (requestCancel s).cfg = s.cfg := by rw [requestCancel_eq]

theorem branchTx_atMostOneXfer (s : State) : EnvAfterAtMostOne s (branchTx s) := by
  rw [branchTx_eq]
  split
  · exact .of_eq rfl
  · exact .of_xfer _ rfl

theorem muteTx_atMostOneXfer (s : State) : EnvAfterAtMostOne s (muteTx s) := by
  rw [muteTx_eq]
  split
  · exact .of_eq rfl
  · exact .of_xfer _ rfl

theorem unmuteTx_atMostOneXfer (s : State) : EnvAfterAtMostOne s (unmuteTx s) := by
  rw [unmuteTx_eq]
  exact .of_xfer _ rfl

/-- No instruction makes more than one transaction. -/
theorem accepted_atMostOneXfer (i : Instr) (s : State) : EnvAfterAtMostOne s (accepted i s) := by
  cases i with
  | rdreg | busRdreg => exact readRegister_atMostOneXfer _ _ s
  | wrreg | busWrreg => exact writeRegister_atMostOneXfer _ _ s
  | nop | busNop => exact .of_xfer _ rfl
  | rddmx | busRddmx | rdasc | busRdasc | rdrdm | busRdrdm => exact readWindow_atMostOneXfer _ _ s
  | wrdmx | wrrdm | fwblk1 | fwblk2 => exact checkedWrite_atMostOneXfer _ _ s
  | busWrdmx | busWrrdm | busFwblk1 | busFwblk2 => exact writeWindow_atMostOneXfer _ _ s
  | rdmenc => exact .of_eq (rdmEncode_env s)
  | rdmdec => exact .of_eq (rdmDecode_env s)
  | poll => exact .of_eq (pollBody_env s)
  | hret | attach | detach | discstart => exact .of_eq rfl
  | disccancel => exact .of_eq (requestCancel_env s)
  | discUniqueBranch =>
    simp only [accepted]
    split
    · exact branchTx_atMostOneXfer s
    · exact .of_eq rfl
  | discMute =>
    simp only [accepted]
    split
    · exact muteTx_atMostOneXfer s
    · exact .of_eq rfl
  | discUnMute =>
    simp only [accepted]
    split
    · exact unmuteTx_atMostOneXfer s
    · exact .of_eq rfl

/-! ### The steps of the sequencers -/

theorem readFlagRegister_atMostOneXfer (a : Byte) (s : State) : EnvAfterAtMostOne s (readFlagRegister a s).2 := by
  rcases readFlagRegister_frame a s with e | ⟨n, e⟩ <;> rw [e]
  · exact .of_eq rfl
  · exact .of_xfer _ rfl

theorem writeBack_atMostOneXfer (a : Byte) (v : Nat) (s : State) : EnvAfterAtMostOne s (writeBack a v s) := by
  rcases writeBack_frame a v s with e | ⟨n, e⟩ <;> rw [e]
  · exact .of_eq rfl
  · exact .of_xfer _ rfl

theorem stepRdflags_atMostOneXfer (s : State) : EnvAfterAtMostOne s (stepRdflags s) := by
  have h := readFlagRegister_atMostOneXfer s.cfg.irqFlagsAddr s
  unfold stepRdflags
  split
  next e t hread => rw [hread] at h; exact h
  next obs t hread => rw [hread] at h; exact h

theorem stepRdext_atMostOneXfer (s : State) : EnvAfterAtMostOne s (stepRdext s) := by
  have h := readFlagRegister_atMostOneXfer s.cfg.extIrqFlagsAddr s
  unfold stepRdext
  split
  next e t hread => rw [hread] at h; exact h
  next obs t hread => rw [hread] at h; exact h

@[simp] theorem stepDispatch_env (s : State) : (stepDispatch s).env = s.env := by
  unfold stepDispatch
  split <;> rfl

theorem stepWbext_atMostOneXfer (s : State) : EnvAfterAtMostOne s (stepWbext s) := writeBack_atMostOneXfer _ _ s

theorem stepWbflags_atMostOneXfer (s : State) : EnvAfterAtMostOne s (stepWbflags s) := writeBack_atMostOneXfer _ _ s

/-- `DS_POP` makes no transaction: it changes the discovery engine only. -/
theorem stepPop_frame (s : State) : stepPop s = { s with de := (stepPop s).de } := by
  unfold stepPop
  split
  · rfl
  · split
    · split <;> rfl
    · rfl

@[simp] theorem stepPop_cfg (s : State) : (stepPop s).cfg = s.cfg := by rw [stepPop_frame s]
@[simp] theorem stepPop_env (s : State) : (stepPop s).env = s.env := by rw [stepPop_frame s]

/-- The answer to a mute is one transaction, whatever comes back (R250, R259). -/
theorem stepMuteRx_frame (s : State) : stepMuteRx s =
    { s with
      env := envAfter (0x83 :: padding s.cfg.lenRdrdm) s
      res := (stepMuteRx s).res
      de := (stepMuteRx s).de } := by
  unfold stepMuteRx bulkRead
  cases readData 0x83 s.cfg.lenRdrdm s <;> rfl

@[simp] theorem stepMuteRx_cfg (s : State) : (stepMuteRx s).cfg = s.cfg := by rw [stepMuteRx_frame s]
@[simp] theorem stepMuteRx_env (s : State) : (stepMuteRx s).env = envAfter (0x83 :: padding s.cfg.lenRdrdm) s := by
  rw [stepMuteRx_frame s]

/-- The answer to a branch request is one transaction, whatever it brings (R243). -/
theorem stepBranchRx_frame {s t : State} (h : stepBranchRx s = .next t) :
    t = { s with env := envAfter (0x83 :: padding s.cfg.lenRdrdm) s, res := t.res, de := t.de } := by
  obtain ⟨d, u, -, hcoll | ⟨-, rfl⟩⟩ := stepBranchRx_next h
  · rw [collision_frame hcoll]
  · rfl

/-! ### The HOST's writes -/

/-- A write of an operand register changes the host port and the RDM fields only (R24, R26). -/
theorem hostWrite_frame {w : HostWrite} {s t : State} (h : hostWrite w s = .next t) : t = { s with port := t.port, f := t.f } := by
  cases w with
  | obuf i bytes =>
    simp only [hostWrite] at h
    split at h <;> cases h
    rfl
  | _ => cases h; rfl

end Sys2Proof.Machine
end

section
/-! SUPPORT. A step and the transactions on record (R8, R80): every turn and every act keeps the configuration and adds at most one. -/

namespace Sys2Proof.Machine

/-- From `s` to `t` the configuration stays, and at most one transaction is put on record, under the line of `CS_ID`. -/
def AddsAtMostOneXfer (s t : State) : Prop :=
  t.cfg = s.cfg ∧ (t.env.bus = s.env.bus ∨ ∃ x, x.cs = s.cfg.csId ∧ t.env.bus = x :: s.env.bus)

/-- What is about the environment only is about the record. -/
theorem AddsAtMostOneXfer.of_env {s t : State} (hcfg : t.cfg = s.cfg) (henv : EnvAfterAtMostOne s t) :
    AddsAtMostOneXfer s t := by
  rcases henv with e | ⟨tx, e⟩
  · exact ⟨hcfg, .inl (by rw [e])⟩
  · exact ⟨hcfg, .inr ⟨{ cs := s.cfg.csId, tx := tx, rx := busReply s tx }, rfl, by rw [e]; rfl⟩⟩

/-- Nothing on record is touched. -/
theorem AddsAtMostOneXfer.of_same_bus {s t : State} (hcfg : t.cfg = s.cfg) (hbus : t.env.bus = s.env.bus) :
    AddsAtMostOneXfer s t := ⟨hcfg, .inl hbus⟩

/-- Only the configuration and the record of the state before count. -/
theorem AddsAtMostOneXfer.of_start {s u t : State} (hcfg : u.cfg = s.cfg) (hbus : u.env.bus = s.env.bus)
    (h : AddsAtMostOneXfer u t) : AddsAtMostOneXfer s t := by
  rwa [AddsAtMostOneXfer, hcfg, hbus] at h

theorem exec_addsAtMostOneXfer {i : Instr} {s t : State} (h : exec i s = .next t) : AddsAtMostOneXfer s t := by
  rcases exec_next h with ⟨k, -, -, rfl⟩ | ⟨-, rfl⟩ | rfl | rfl | ⟨-, -, rfl⟩
  · exact .of_start (u := dropOffer s) rfl rfl (.of_env (accepted_cfg i _) (accepted_atMostOneXfer i _))
  · exact .of_env (accepted_cfg i s) (accepted_atMostOneXfer i s)
  · exact .of_same_bus rfl rfl
  · exact .of_same_bus rfl rfl
  · exact .of_env (requestCancel_cfg s) (.of_eq (requestCancel_env s))

theorem portTurn_addsAtMostOneXfer {s t : State} (h : portTurn s = .next t) : AddsAtMostOneXfer s t := by
  rcases portTurn_next h with ⟨i, -, -, hexec⟩ | ⟨-, -, rfl⟩ | ⟨-, rfl⟩
  · exact exec_addsAtMostOneXfer hexec
  · exact .of_same_bus rfl rfl
  · exact .of_same_bus rfl rfl

theorem deliverEvent_addsAtMostOneXfer {e : RespEvent} {s t : State} (h : deliverEvent e s = .next t) :
    AddsAtMostOneXfer s t := by
  rw [deliverEvent_frame h]
  exact .of_same_bus rfl rfl

theorem stepWait_addsAtMostOneXfer {s t : State} (h : stepWait s = .next t) : AddsAtMostOneXfer s t := by
  unfold stepWait at h
  split at h
  · cases h
    exact .of_same_bus rfl rfl
  · split at h
    · exact .of_start (u := { s with env := { s.env with trx := s.env.trx.clearEvent } }) rfl rfl
        (deliverEvent_addsAtMostOneXfer h)
    · cases h
      exact .of_same_bus rfl rfl

theorem discTurn_addsAtMostOneXfer {s t : State} (h : discTurn s = .next t) : AddsAtMostOneXfer s t := by
  cases hd : s.de.ds <;> simp only [discTurn, hd] at h
  case branchTx | muteTx | unmuteTx => exact exec_addsAtMostOneXfer h
  case branchWait | muteWait => exact stepWait_addsAtMostOneXfer h
  case branchRx => rw [stepBranchRx_frame h]; exact .of_env rfl (.of_xfer _ rfl)
  case idle => cases h; exact .of_same_bus rfl rfl
  case pop => cases h; exact .of_env (stepPop_cfg s) (.of_eq (stepPop_env s))
  case muteRx => cases h; exact .of_env (stepMuteRx_cfg s) (.of_xfer _ (stepMuteRx_env s))

theorem seqTurn_addsAtMostOneXfer {s t : State} (h : seqTurn s = .next t) : AddsAtMostOneXfer s t := by
  cases hi : s.irqd.iq <;> simp only [seqTurn, hi] at h
  case idle => exact discTurn_addsAtMostOneXfer h
  all_goals cases h
  case rdflags => exact .of_env (stepRdflags_cfg s) (stepRdflags_atMostOneXfer s)
  case rdext => exact .of_env (stepRdext_cfg s) (stepRdext_atMostOneXfer s)
  case dispatch => exact .of_env (stepDispatch_cfg s) (.of_eq (stepDispatch_env s))
  case call => exact .of_same_bus rfl rfl
  case wbext => exact .of_env (stepWbext_cfg s) (stepWbext_atMostOneXfer s)
  case wbflags => exact .of_env (stepWbflags_cfg s) (stepWbflags_atMostOneXfer s)

theorem applyAct_addsAtMostOneXfer {a : Act} {s t : State} (h : applyAct a s = .next t) : AddsAtMostOneXfer s t := by
  cases a with
  | port => exact portTurn_addsAtMostOneXfer h
  | seq => exact seqTurn_addsAtMostOneXfer h
  | write w => rw [hostWrite_frame h]; exact .of_same_bus rfl rfl
  | event e => exact deliverEvent_addsAtMostOneXfer h
  | irqAssert =>
    cases h
    unfold irqAssert
    split <;> exact .of_same_bus rfl rfl
  | offer | withdraw | reset | envReg | envRegOr | envWin =>
    cases h
    exact .of_same_bus rfl rfl

/-- Settles O55: a step is an act or a turn, and each of them runs at most one body that makes a transaction. -/
theorem stepAppendsAtMostOneTransaction : Obligations.StepAppendsAtMostOneTransaction := by
  intro s t h
  change AddsAtMostOneXfer s t
  obtain ⟨-, ⟨a, rest, -, hact⟩ | ⟨-, hport | hseq⟩⟩ := step_next h
  · exact .of_start (u := withScript rest s) rfl rfl (applyAct_addsAtMostOneXfer hact)
  · exact portTurn_addsAtMostOneXfer hport
  · exact seqTurn_addsAtMostOneXfer hseq

end Sys2Proof.Machine
end

section
/-! SUPPORT. The dispatcher's registers through a pass (R33, R172 to R188): each of their updates keeps them sound. -/

namespace Sys2Proof.Machine

/-! ### The updates of a pass, each on the registers alone -/

/-- `PEND` after the read of `IRQ_FLAGS` (R173): bits 0 and 1 are the observed ones. -/
theorem pendOfFlags_bits (c : Cfg) (obs : Nat) (p : BitVec 4) :
    (pendOfFlags c obs p).getLsbD hRfLink = obs.testBit c.bRfLink
      ∧ (pendOfFlags c obs p).getLsbD hDmxChanged = obs.testBit c.bDmxChanged
      ∧ (pendOfFlags c obs p).getLsbD hSpiRdm = p.getLsbD hSpiRdm
      ∧ (pendOfFlags c obs p).getLsbD hSpiRadioDisc = p.getLsbD hSpiRadioDisc := by
  simp only [pendOfFlags, hRfLink, hDmxChanged, hSpiRdm, hSpiRadioDisc]
  refine ⟨?_, ?_, ?_, ?_⟩ <;> simp only [setFlag_getLsbD, Nat.reduceLT] <;> simp

/-- `PEND` after the read of `EXT_IRQ_FLAGS` (R174): bits 2 and 3 are the observed ones. -/
theorem pendOfExt_bits (c : Cfg) (obs : Nat) (p : BitVec 4) :
    (pendOfExt c obs p).getLsbD hRfLink = p.getLsbD hRfLink
      ∧ (pendOfExt c obs p).getLsbD hDmxChanged = p.getLsbD hDmxChanged
      ∧ (pendOfExt c obs p).getLsbD hSpiRdm = obs.testBit c.bSpiRdm
      ∧ (pendOfExt c obs p).getLsbD hSpiRadioDisc = obs.testBit c.bSpiRadioDisc := by
  simp only [pendOfExt, hRfLink, hDmxChanged, hSpiRdm, hSpiRadioDisc]
  refine ⟨?_, ?_, ?_, ?_⟩ <;> simp only [setFlag_getLsbD, Nat.reduceLT] <;> simp

/-- Nothing observed, pending or consumed: the registers after reset and ATTACH, and at the start of a pass (R172). -/
theorem DispatchSound.cleared (c : Cfg) {q : Iq} (hq : q = .idle ∨ q = .rdflags) (p stale : Bool) (k : BitVec 2) :
    DispatchSound c { iq := q, irqPending := p, obsFlags := 0, obsExt := 0, extRead := false, pend := 0, cons := 0,
                      stale := stale, hcall := k } := by
  constructor <;> rcases hq with rfl | rfl <;> simp

section
variable {c : Cfg} {d : Irqd}

/-- Nothing is asked of `irq_pending`. -/
theorem DispatchSound.setPending (h : DispatchSound c d) (p : Bool) : DispatchSound c { d with irqPending := p } :=
  { h with }

/-- Going on to a state in which nothing is said of the observed flags. -/
theorem DispatchSound.goto (h : DispatchSound c d) {q : Iq} (hq : q ≠ .call ∧ q ≠ .rdflags ∧ q ≠ .rdext) :
    DispatchSound c { d with iq := q } :=
  { h with
    called_pending := fun e => absurd e hq.1
    extended_observed := fun e => h.extended_observed (.inl (e.resolve_right hq.2.2))
    rdflags_fresh := fun e => absurd e hq.2.1
    rdext_fresh := fun e => absurd e hq.2.2 }

/-- The handler called is pending, being eligible (R177). -/
theorem DispatchSound.call (h : DispatchSound c d) {k : BitVec 2} (hk : eligible d k.toNat = true) :
    DispatchSound c { d with hcall := k, iq := .call } := by
  simp only [eligible, Bool.and_eq_true] at hk
  exact { h with
    called_pending := fun _ => hk.1.1
    extended_observed := fun e => h.extended_observed (.inl (e.resolve_right (by simp)))
    rdflags_fresh := by simp
    rdext_fresh := by simp }

/-- The flag consumed by the return from a call-out is the pending one (R181). -/
theorem DispatchSound.consume (h : DispatchSound c d) (hd : d.iq = .call) (stale : Bool) :
    DispatchSound c { d with iq := .dispatch, cons := setFlag d.cons d.hcall.toNat true, stale := stale } :=
  { h with
    consumed_pending := by
      intro k hk hcons
      rw [setFlag_getLsbD _ d.hcall.isLt _ hk] at hcons
      split at hcons
      next he => exact he ▸ h.called_pending hd
      next => exact h.consumed_pending k hk hcons
    called_pending := by simp
    extended_observed := fun e => h.extended_observed (.inl (e.resolve_right (by simp)))
    rdflags_fresh := by simp
    rdext_fresh := by simp }

/-- The read of `IRQ_FLAGS` starts from registers that say nothing (R173). -/
theorem DispatchSound.observeFlags (h : DispatchSound c d) (hd : d.iq = .rdflags) (obs : Nat) :
    DispatchSound c { d with
      obsFlags := obs
      pend := pendOfFlags c obs d.pend
      iq := if obs.testBit c.bExtended then .rdext else .dispatch } := by
  obtain ⟨hpend, hcons, hread⟩ := h.rdflags_fresh hd
  obtain ⟨hrf, hdmx, hrdm, hradio⟩ := pendOfFlags_bits c obs d.pend
  replace hrdm : _ = false := hrdm.trans (by simp [hpend])
  replace hradio : _ = false := hradio.trans (by simp [hpend])
  exact { h with
    consumed_pending := by simp [hcons]
    called_pending := by simp only; split <;> simp
    rfLink_observed := hrf.symm.trans
    dmxChanged_observed := hdmx.symm.trans
    spiRdm_observed := fun e => absurd (hrdm.symm.trans e) (by simp)
    spiRadioDisc_observed := fun e => absurd (hradio.symm.trans e) (by simp)
    extended_observed := by simp [hread]
    rdflags_fresh := by simp only; split <;> simp
    rdext_fresh := fun _ => ⟨hrdm, hradio, hcons⟩ }

/-- The read of `EXT_IRQ_FLAGS` keeps the bits of `IRQ_FLAGS` (R174). -/
theorem DispatchSound.observeExt (h : DispatchSound c d) (hd : d.iq = .rdext) (obs : Nat) :
    DispatchSound c { d with obsExt := obs, extRead := true, pend := pendOfExt c obs d.pend, iq := .dispatch } := by
  obtain ⟨-, -, hcons⟩ := h.rdext_fresh hd
  obtain ⟨hrf, hdmx, hrdm, hradio⟩ := pendOfExt_bits c obs d.pend
  exact {
    consumed_pending := by simp [hcons]
    called_pending := by simp
    rfLink_observed := fun e => h.rfLink_observed (hrf.symm.trans e)
    dmxChanged_observed := fun e => h.dmxChanged_observed (hdmx.symm.trans e)
    spiRdm_observed := hrdm.symm.trans
    spiRadioDisc_observed := hradio.symm.trans
    extended_observed := fun _ => h.extended_observed (.inr hd)
    ext_unread := by simp
    rdflags_fresh := by simp
    rdext_fresh := by simp }

end

/-! ### What each step of the dispatcher does to them -/

/-- `IQ_RDFLAGS` (R173, R176): the pass ends re-armed, or the flags are observed. -/
theorem stepRdflags_irqd_cases (s : State) :
    (stepRdflags s).irqd = { s.irqd with irqPending := true, iq := .idle }
      ∨ ∃ obs, (stepRdflags s).irqd = { s.irqd with
          obsFlags := obs
          pend := pendOfFlags s.cfg obs s.irqd.pend
          iq := if obs.testBit s.cfg.bExtended then .rdext else .dispatch } := by
  have hirqd := readFlagRegister_irqd s.cfg.irqFlagsAddr s
  have hcfg := readFlagRegister_cfg s.cfg.irqFlagsAddr s
  unfold stepRdflags
  split
  next e t hread => exact .inl (by rw [hread] at hirqd; simp [failPass, show t.irqd = _ from hirqd])
  next obs t hread =>
    rw [hread] at hirqd hcfg
    exact .inr ⟨obs, by simp [show t.irqd = _ from hirqd, show t.cfg = _ from hcfg]⟩

/-- `IQ_RDEXT` (R174, R176): the pass ends re-armed, or the flags are observed. -/
theorem stepRdext_irqd_cases (s : State) :
    (stepRdext s).irqd = { s.irqd with irqPending := true, iq := .idle }
      ∨ ∃ obs, (stepRdext s).irqd = { s.irqd with
          obsExt := obs, extRead := true, pend := pendOfExt s.cfg obs s.irqd.pend, iq := .dispatch } := by
  have hirqd := readFlagRegister_irqd s.cfg.extIrqFlagsAddr s
  have hcfg := readFlagRegister_cfg s.cfg.extIrqFlagsAddr s
  unfold stepRdext
  split
  next e t hread => exact .inl (by rw [hread] at hirqd; simp [failPass, show t.irqd = _ from hirqd])
  next obs t hread =>
    rw [hread] at hirqd hcfg
    exact .inr ⟨obs, by simp [show t.irqd = _ from hirqd, show t.cfg = _ from hcfg]⟩

/-- `IQ_DISPATCH` (R177): an eligible handler is called, or the write-back begins. -/
theorem stepDispatch_irqd_cases (s : State) :
    (∃ k : BitVec 2, eligible s.irqd k.toNat = true ∧ (stepDispatch s).irqd = { s.irqd with hcall := k, iq := .call })
      ∨ (stepDispatch s).irqd = { s.irqd with iq := .wbext } := by
  unfold stepDispatch
  split
  next k hk => exact .inl ⟨k, (nextHandler_some.mp hk).1, rfl⟩
  next => exact .inr rfl

@[simp] theorem stepWbext_irqd (s : State) : (stepWbext s).irqd = { s.irqd with iq := .wbflags } := by
  simp [stepWbext]

@[simp] theorem stepWbflags_irqd (s : State) : (stepWbflags s).irqd =
    { s.irqd with irqPending := s.irqd.irqPending || someUnconsumed s.irqd, iq := .idle } := by
  simp [stepWbflags, endPass]

@[simp] theorem irqAssert_irqd (s : State) :
    (irqAssert s).irqd = { s.irqd with irqPending := s.irqd.irqPending || s.attached } := by
  cases ha : s.attached <;> simp [irqAssert, ha]

@[simp] theorem requestCancel_irqd (s : State) : (requestCancel s).irqd = s.irqd := by rw [requestCancel_eq]

/-- POLL starts a pass, or completes and leaves the registers (R172). -/
theorem pollBody_irqd_cases (s : State) : (pollBody s).irqd = (startPass s).irqd ∨ (pollBody s).irqd = s.irqd := by
  unfold pollBody
  split
  · exact .inl rfl
  · exact .inr rfl

/-! ### The invariant -/

/-- An accepted instruction keeps the dispatcher's registers sound: HRET is accepted in a call-out only. -/
theorem accepted_dispatchSound {i : Instr} {s : State} (h : DispatchSound s.cfg s.irqd)
    (ha : ∀ k, opClass i = some k → acceptance k (portColumn s) = .accept) :
    DispatchSound (accepted i s).cfg (accepted i s).irqd := by
  rw [accepted_cfg]
  cases i with
  | poll =>
    rcases pollBody_irqd_cases s with e | e <;> rw [accepted, e]
    · exact .cleared _ (.inr rfl) _ _ _
    · exact h
  | hret => exact h.consume (inCall_of_accept (ha .hret rfl)).2 _
  | attach => exact .cleared _ (.inl rfl) _ _ _
  | detach => exact h.setPending false
  | _ => rwa [accepted_irqd _ _ (by simp)]

/-- Each of the five steps of a pass keeps them sound. -/
theorem dispatcher_dispatchSound {s : State} (h : DispatchSound s.cfg s.irqd) :
    (s.irqd.iq = .rdflags → DispatchSound s.cfg (stepRdflags s).irqd)
      ∧ (s.irqd.iq = .rdext → DispatchSound s.cfg (stepRdext s).irqd)
      ∧ DispatchSound s.cfg (stepDispatch s).irqd ∧ DispatchSound s.cfg (stepWbext s).irqd
      ∧ DispatchSound s.cfg (stepWbflags s).irqd := by
  refine ⟨fun hq => ?_, fun hq => ?_, ?_, ?_, ?_⟩
  · rcases stepRdflags_irqd_cases s with e | ⟨obs, e⟩ <;> rw [e]
    · exact (h.setPending true).goto (by simp)
    · exact h.observeFlags hq obs
  · rcases stepRdext_irqd_cases s with e | ⟨obs, e⟩ <;> rw [e]
    · exact (h.setPending true).goto (by simp)
    · exact h.observeExt hq obs
  · rcases stepDispatch_irqd_cases s with ⟨k, hk, e⟩ | e <;> rw [e]
    · exact h.call hk
    · exact h.goto (by simp)
  · rw [stepWbext_irqd]
    exact h.goto (by simp)
  · rw [stepWbflags_irqd]
    exact (h.setPending _).goto (by simp)

/-- Settles O50: only POLL, HRET, ATTACH, DETACH, the interrupt line, a reset and the five steps of a pass write the
dispatcher's registers, and each of them keeps them sound. -/
theorem stepKeepsDispatchSound : Obligations.StepKeepsDispatchSound := by
  intro s t hs hstep
  refine step_preserves (P := fun s => DispatchSound s.cfg s.irqd) (fun _ _ h => h) (fun i s h _ ha => accepted_dispatchSound h ha)
    (fun _ h => h) ?cancel ?write (fun _ _ h => h) ?irq ?event ?reset (fun _ _ h => h) ?dispatcher ?pop ?branchRx ?muteRx
    (fun _ h _ _ _ => h) hs hstep
  case cancel => intro s h; rwa [requestCancel_cfg, requestCancel_irqd]
  case write => intro w s t h _ hw; rw [hostWrite_frame hw]; exact h
  case irq =>
    intro s h
    have hcfg : (irqAssert s).cfg = s.cfg := by unfold irqAssert; split <;> rfl
    rw [hcfg, irqAssert_irqd]
    exact h.setPending _
  case event => intro e s t h _ he; rw [deliverEvent_frame he]; exact h
  case reset => exact fun s _ _ => .cleared _ (.inl rfl) _ _ _
  case dispatcher =>
    intro s h _
    obtain ⟨hflags, hext, hdisp, hwbext, hwbflags⟩ := dispatcher_dispatchSound h
    simp only [stepRdflags_cfg, stepRdext_cfg, stepDispatch_cfg, stepWbext_cfg, stepWbflags_cfg]
    exact ⟨hflags, hext, fun _ => hdisp, fun _ => hwbext, fun _ => hwbflags⟩
  case pop => intro s h _ _ _; rw [stepPop_frame]; exact h
  case branchRx => intro s t h _ _ _ he; rw [stepBranchRx_frame he]; exact h
  case muteRx => intro s h _ _ _; rw [stepMuteRx_frame]; exact h

end Sys2Proof.Machine
end

section
/-! SUPPORT. What a step can do to the discovery engine (R231 to R262), said once for every property of its registers. -/

namespace Sys2Proof.Machine

/-- From `s` to `t` the configuration stays, and of the discovery engine's registers only `DBUF`, `LAST_EV` and
`CANCEL_REQ` may change. -/
def DiscQuiet (s t : State) : Prop :=
  t.cfg = s.cfg ∧ t.de = { s.de with dbuf := t.de.dbuf, lastEv := t.de.lastEv, cancelReq := t.de.cancelReq }

theorem DiscQuiet.of_eq {s t : State} (hcfg : t.cfg = s.cfg) (hde : t.de = s.de) : DiscQuiet s t := by
  rw [DiscQuiet, hde]
  exact ⟨hcfg, rfl⟩

theorem DiscQuiet.ds {s t : State} (h : DiscQuiet s t) : t.de.ds = s.de.ds := by rw [h.2]

theorem requestCancel_discQuiet (s : State) : DiscQuiet s (requestCancel s) := by
  rw [requestCancel_eq]
  exact ⟨rfl, rfl⟩

theorem irqAssert_discQuiet (s : State) : DiscQuiet s (irqAssert s) := by
  unfold irqAssert
  split <;> exact .of_eq rfl rfl

/-! ### State `DS_POP` (R235, R252, R253) -/

theorem stepPop_cancel {s : State} (hc : s.de.cancelReq = true) : stepPop s = cancelPass s := by simp [stepPop, hc]

theorem stepPop_unmute {s : State} (hc : s.de.cancelReq = false) (hz : s.de.sp = 0) (hu : s.de.unmuteAtEnd = true) :
    stepPop s = setDs .unmuteTx s := by simp [stepPop, hc, hz, hu]

theorem stepPop_finish {s : State} (hc : s.de.cancelReq = false) (hz : s.de.sp = 0) (hu : s.de.unmuteAtEnd = false) :
    stepPop s = finishPass s := by simp [stepPop, hc, hz, hu]

theorem stepPop_take {s : State} {r : UidRange} (hc : s.de.cancelReq = false) (hpos : 0 < s.de.sp)
    (hr : s.de.stk.getD (s.de.sp - 1) ⟨0, 0⟩ = r) : stepPop s = { s with de :=
      { s.de with sp := s.de.sp - 1, curLo := r.lo, curHi := r.hi, retry := 0, ds := .branchTx } } := by
  subst hr
  simp [stepPop, hc, hpos.ne']

/-- Everything `DS_POP` can do. -/
theorem stepPop_cases (s : State) :
    stepPop s = cancelPass s ∨ stepPop s = setDs .unmuteTx s ∨ stepPop s = finishPass s
      ∨ (0 < s.de.sp ∧ ∃ r, s.de.stk.getD (s.de.sp - 1) ⟨0, 0⟩ = r ∧ stepPop s = { s with de :=
          { s.de with sp := s.de.sp - 1, curLo := r.lo, curHi := r.hi, retry := 0, ds := .branchTx } }) := by
  cases hc : s.de.cancelReq with
  | true => exact .inl (stepPop_cancel hc)
  | false =>
    rcases Nat.eq_zero_or_pos s.de.sp with hz | hpos
    · cases hu : s.de.unmuteAtEnd with
      | true => exact .inr (.inl (stepPop_unmute hc hz hu))
      | false => exact .inr (.inr (.inl (stepPop_finish hc hz hu)))
    · exact .inr (.inr (.inr ⟨hpos, _, rfl, stepPop_take hc hpos rfl⟩))

/-! ### The moves of a pass -/

/-- A request of the discovery engine is sent in its sending state, and does nothing in any other (R231, log 12). -/
theorem accepted_request_cases {i : Instr} (s : State) (hk : opClass i = none) :
    accepted i s = s
      ∨ (i = .discUniqueBranch ∧ s.de.ds = .branchTx ∧ accepted i s = branchTx s)
      ∨ (i = .discMute ∧ s.de.ds = .muteTx ∧ accepted i s = muteTx s)
      ∨ (i = .discUnMute ∧ s.de.ds = .unmuteTx ∧ accepted i s = unmuteTx s) := by
  cases i with
  | discUniqueBranch => by_cases hd : s.de.ds = .branchTx <;> simp [accepted, hd]
  | discMute => by_cases hd : s.de.ds = .muteTx <;> simp [accepted, hd]
  | discUnMute => by_cases hd : s.de.ds = .unmuteTx <;> simp [accepted, hd]
  | _ => cases hk

/-- The answer to a mute, whatever it is: the next range (R250, R259). -/
theorem stepMuteRx_eq (s : State) : ∃ t, DiscQuiet s t ∧ stepMuteRx s = setDs .pop t := by
  rcases readData_cases 0x83 s.cfg.lenRdrdm s with ⟨-, hd⟩ | ⟨-, hd, -⟩
  · exact ⟨busXfer (0x83 :: padding s.cfg.lenRdrdm) s, .of_eq rfl rfl, by simp only [stepMuteRx, bulkRead, hd, readTx]⟩
  · exact ⟨fillDbuf ((busReply s (0x83 :: padding s.cfg.lenRdrdm)).drop 1) (busXfer (0x83 :: padding s.cfg.lenRdrdm) s),
      ⟨rfl, rfl⟩, by simp only [stepMuteRx, bulkRead, hd, readTx]⟩

/-- A property of the discovery engine is kept by every step, if it is kept by each move of a pass. -/
theorem step_preserves_discovery {P : State → Prop}
    (quiet : ∀ s t, P s → DiscQuiet s t → P t)
    (reset : ∀ s, s.cfg.wf = true → P (externalReset s))
    (attach : ∀ s, P s → P (attachBody s))
    (start : ∀ s, P s → s.cfg.wf = true → P (startDiscovery s))
    (unwind : ∀ s, P s → s.de.ds ≠ .idle → P (cancelPass s))
    (finish : ∀ s, P s → P (finishPass s))
    (goto : ∀ q s, P s → s.de.ds ≠ .idle → q ≠ .idle → (probing q = true → probing s.de.ds = true) →
      (muting q = true → muting s.de.ds = true) → P (setDs q s))
    (confirm : ∀ s, P s → s.de.ds = .muteTx → P (setDs .muteWait (recordUid s.de.isoUid s)))
    (isolate : ∀ u s, P s → s.de.ds = .branchRx → reservedUid u = false →
      P { s with de := { s.de with isoUid := u, ds := .muteTx } })
    (take : ∀ r s, P s → s.de.ds = .pop → 0 < s.de.sp → s.de.stk.getD (s.de.sp - 1) ⟨0, 0⟩ = r →
      P { s with de := { s.de with sp := s.de.sp - 1, curLo := r.lo, curHi := r.hi, retry := 0, ds := .branchTx } })
    (collide : ∀ s t, P s → probing s.de.ds = true → collision s = .next t → P t)
    {s t : State} (hP : P s) (h : step s = .next t) : P t := by
  have same : ∀ s t, P s → t.cfg = s.cfg → t.de = s.de → P t := fun s t hP hcfg hde => quiet s t hP (.of_eq hcfg hde)
  have hrequest : ∀ i s, P s → opClass i = none → P (accepted i s) := by
    intro i s hP hk
    have hsend : ∀ frame, P (sendRequest frame s) := fun frame => quiet s _ hP ⟨rfl, rfl⟩
    rcases accepted_request_cases s hk with e | ⟨-, hd, e⟩ | ⟨-, hd, e⟩ | ⟨-, -, e⟩ <;> rw [e]
    · exact hP
    · unfold branchTx
      split
      · exact unwind s hP (by simp [hd])
      · exact goto _ _ (hsend _) (by simp [sendRequest_eq, hd]) (by simp) (by simp [sendRequest_eq, hd, probing])
          (by simp [muting])
    · unfold muteTx
      split
      · exact unwind s hP (by simp [hd])
      · exact confirm _ (hsend _) hd
    · exact finish _ (hsend _)
  have hrun : ∀ i s, P s → s.cfg.wf = true → P (accepted i s) := by
    intro i s hP hw
    cases i with
    | attach => exact attach s hP
    | discstart => exact start s hP hw
    | disccancel => exact quiet s _ hP (requestCancel_discQuiet s)
    | discUniqueBranch | discMute | discUnMute => exact hrequest _ s hP rfl
    | _ => exact same s _ hP (accepted_cfg _ s) (accepted_de _ s (by simp [opClass]))
  refine step_preserves (P := P) (fun _ s hP => same s _ hP rfl rfl) (fun i s hP hw _ => hrun i s hP hw)
    (fun s hP => same s _ hP rfl rfl) (fun s hP => quiet s _ hP (requestCancel_discQuiet s)) ?write
    (fun _ s hP => same s _ hP rfl rfl) (fun s hP => quiet s _ hP (irqAssert_discQuiet s)) ?event (fun s _ hw => reset s hw)
    (fun s _ hP => same s _ hP rfl rfl) ?dispatcher ?pop ?branchRx ?muteRx ?unwind hP h
  case write => intro w s t hP _ hw; rw [hostWrite_frame hw]; exact same s _ hP rfl rfl
  case event =>
    intro e s t hP _ he
    have hnote : P (noteEvent e s) := quiet s _ hP ⟨rfl, rfl⟩
    rcases deliverEvent_next he with rfl | ⟨-, hd, rfl⟩ | ⟨hd, -, rfl⟩ | ⟨hd, -, rfl⟩ | ⟨hd, -, hc⟩ | ⟨hd, -, rfl⟩ | ⟨hd, -, rfl⟩
    · exact hP
    · exact unwind s hP (by rcases hd with hd | hd <;> simp [hd])
    · exact goto _ _ hnote (by simp [hd]) (by simp) (by simp [probing]) (by simp [muting])
    · exact goto _ _ hnote (by simp [hd]) (by simp) (by simp [hd, probing]) (by simp [muting])
    · exact collide _ t hnote (by simp [hd, probing]) hc
    · exact goto _ _ hnote (by simp [hd]) (by simp) (by simp [probing]) (by simp [hd, muting])
    · exact goto _ _ hnote (by simp [hd]) (by simp) (by simp [probing]) (by simp [muting])
  case dispatcher =>
    intro s hP _
    exact ⟨fun _ => same s _ hP (stepRdflags_cfg s) (stepRdflags_de s), fun _ => same s _ hP (stepRdext_cfg s) (stepRdext_de s),
      fun _ => same s _ hP (stepDispatch_cfg s) (stepDispatch_de s), fun _ => same s _ hP (stepWbext_cfg s) (stepWbext_de s),
      fun _ => same s _ hP (stepWbflags_cfg s) (stepWbflags_de s)⟩
  case pop =>
    intro s hP _ _ hd
    rcases stepPop_cases s with e | e | e | ⟨hpos, r, hr, e⟩ <;> rw [e]
    · exact unwind s hP (by simp [hd])
    · exact goto _ s hP (by simp [hd]) (by simp) (by simp [probing]) (by simp [muting])
    · exact finish s hP
    · exact take r s hP hd hpos hr
  case branchRx =>
    intro s t hP _ _ hd he
    obtain ⟨m, u, -, hc | ⟨hu, rfl⟩⟩ := stepBranchRx_next he
    · exact collide _ t (quiet s _ hP ⟨by rfl, by rfl⟩) (by simp [hd, probing]) hc
    · exact isolate u _ (quiet s { s with
          env := envAfter (0x83 :: padding s.cfg.lenRdrdm) s
          res := { s.res with firstRx := firstRxAfter (0x83 :: padding s.cfg.lenRdrdm) s }
          de := { s.de with dbuf := m } } hP ⟨rfl, rfl⟩) hd hu
  case muteRx =>
    intro s hP _ _ hd
    obtain ⟨t, ht, e⟩ := stepMuteRx_eq s
    rw [e]
    exact goto _ t (quiet s t hP ht) (by simp [ht.ds, hd]) (by simp) (by simp [probing]) (by simp [muting])
  case unwind => intro s hP _ _ hd; exact unwind s hP (by rcases hd with hd | hd <;> simp [hd])

end Sys2Proof.Machine
end

section
/-! SUPPORT. The search (R51, R246, R247, R262): the open ranges stay disjoint and their sizes disciplined. -/

namespace Sys2Proof.Machine

/-! ### The halves of a range (R247) -/

/-- The midpoint is the floor of the middle: nothing in it wraps. -/
theorem mid_toNat {lo hi : Uid} (h : lo.toNat ≤ hi.toNat) :
    (mid lo hi).toNat = lo.toNat + (hi.toNat - lo.toNat) / 2 := by
  have hhi := hi.isLt
  have hdiff : (hi - lo).toNat = hi.toNat - lo.toNat := BitVec.toNat_sub_of_le (BitVec.le_def.mpr h)
  rw [mid, BitVec.toNat_add, BitVec.toNat_ushiftRight, hdiff, Nat.shiftRight_eq_div_pow, Nat.pow_one, Nat.mod_eq_of_lt]
  omega

/-- The upper half begins right after the midpoint. -/
theorem mid_succ_toNat {lo hi : Uid} (h : lo.toNat < hi.toNat) : (mid lo hi + 1).toNat = (mid lo hi).toNat + 1 := by
  have hhi := hi.isLt
  have hmid := mid_toNat h.le
  rw [BitVec.toNat_add, hmid, show (1 : Uid).toNat = 1 from rfl, Nat.mod_eq_of_lt]
  omega

theorem HasSize.lo_le {r : UidRange} {k : Nat} (h : HasSize r k) : r.lo.toNat ≤ r.hi.toNat := by
  have := Nat.two_pow_pos k
  unfold HasSize at h
  omega

/-- A range that is no leaf has an even size, and each of its halves has half of it. -/
theorem HasSize.halves {lo hi : Uid} {k : Nat} (h : HasSize ⟨lo, hi⟩ k) (hne : lo ≠ hi) :
    ∃ j, k = j + 1 ∧ HasSize ⟨lo, mid lo hi⟩ j ∧ HasSize ⟨mid lo hi + 1, hi⟩ j := by
  have hlt : lo.toNat < hi.toNat := Nat.lt_of_le_of_ne h.lo_le (fun e => hne (BitVec.eq_of_toNat_eq e))
  have hmid := mid_toNat hlt.le
  have hsucc := mid_succ_toNat hlt
  unfold HasSize at h ⊢
  simp only at h ⊢
  obtain - | j := k
  · omega
  · have hpow : 2 ^ (j + 1) = 2 * 2 ^ j := Nat.pow_succ'
    exact ⟨j, rfl, by omega, by omega⟩

/-! ### The discipline of the sizes (R262) -/

theorem SizesDisciplined.tail {ks : List Nat} (h : SizesDisciplined ks) : SizesDisciplined ks.tail := by
  obtain ⟨hrise, -, hle, hle47⟩ := h
  cases ks with
  | nil => simp [SizesDisciplined]
  | cons k ks =>
    refine ⟨hrise.tail, ?_, fun j hj => hle j (.tail k hj), fun hlen j hj => hle47 ?_ j (.tail k hj)⟩
    · cases ks with
      | nil => simp
      | cons j ks =>
        rintro _ ⟨⟩ i hi
        exact (List.rel_of_pairwise_cons hrise hi).le
    · simp only [List.tail_cons, List.length_cons] at hlen ⊢
      omega

/-- The two halves of the top range lie under all the others. -/
theorem SizesDisciplined.split {j : Nat} {ks : List Nat} (h : SizesDisciplined ((j + 1) :: ks)) :
    SizesDisciplined (j :: j :: ks) := by
  obtain ⟨hrise, htop, hle, hle47⟩ := h
  simp only [List.tail_cons, List.head?_cons, Option.mem_some_iff, forall_eq'] at hrise htop
  have hj : j + 1 ≤ 48 := hle _ (.head _)
  refine ⟨List.pairwise_cons.mpr ⟨fun i hi => htop i hi, hrise⟩, ?_, ?_, fun _ => ?_⟩
  · simp only [List.head?_cons, Option.mem_some_iff, forall_eq', List.tail_cons, List.mem_cons, forall_eq_or_imp]
    exact ⟨le_rfl, fun i hi => Nat.le_of_succ_le (htop i hi)⟩
  · simp only [List.mem_cons, forall_eq_or_imp]
    exact ⟨by omega, by omega, fun i hi => hle i (.tail _ hi)⟩
  · simp only [List.mem_cons, forall_eq_or_imp]
    refine ⟨by omega, by omega, fun i hi => hle47 ?_ i (.tail _ hi)⟩
    have := List.length_pos_of_mem hi
    simp only [List.length_cons]
    omega

/-! ### The open ranges -/

/-- What `SearchSound` says of the open ranges, the lowest first. -/
def RangesSound (rs : List UidRange) : Prop :=
  rs.Pairwise (fun r q => r.hi.toNat < q.lo.toNat) ∧ ∃ ks, List.Forall₂ HasSize rs ks ∧ SizesDisciplined ks

theorem searchSound_iff (s : State) :
    SearchSound s ↔ s.de.stk.length = s.cfg.stackCap ∧ s.de.sp ≤ s.cfg.stackCap ∧ RangesSound (openRanges s.de) := Iff.rfl

theorem RangesSound.nil : RangesSound [] := ⟨.nil, [], .nil, by simp [SizesDisciplined]⟩

/-- The whole UID space, alone (R232). -/
theorem RangesSound.whole : RangesSound [wholeRange] :=
  ⟨List.pairwise_singleton _ _, [48], .cons rfl .nil, by simp [SizesDisciplined]⟩

/-- The lowest range is decided. -/
theorem RangesSound.tail {rs : List UidRange} (h : RangesSound rs) : RangesSound rs.tail := by
  obtain ⟨hdis, ks, hsize, hks⟩ := h
  cases hsize with
  | nil => exact .nil
  | cons _ hsizes => exact ⟨hdis.tail, _, hsizes, hks.tail⟩

/-- The lowest range is split (R246). -/
theorem RangesSound.split {lo hi : Uid} {rs : List UidRange} (h : RangesSound (⟨lo, hi⟩ :: rs)) (hne : lo ≠ hi) :
    RangesSound (⟨lo, mid lo hi⟩ :: ⟨mid lo hi + 1, hi⟩ :: rs) := by
  obtain ⟨hdis, _, hsize, hks⟩ := h
  obtain ⟨hbelow, hrest⟩ := List.pairwise_cons.mp hdis
  cases hsize with
  | cons hk hsizes =>
    obtain ⟨j, rfl, hlower, hupper⟩ := hk.halves hne
    have hlt : lo.toNat < hi.toNat := Nat.lt_of_le_of_ne hk.lo_le fun e => hne (BitVec.eq_of_toNat_eq e)
    have hsucc : (mid lo hi).toNat < (mid lo hi + 1).toNat := by rw [mid_succ_toNat hlt]; omega
    have hmid := hupper.lo_le
    refine ⟨?_, _, .cons hlower (.cons hupper hsizes), hks.split⟩
    simp only [List.pairwise_cons, List.mem_cons, forall_eq_or_imp]
    exact ⟨⟨hsucc, fun q hq => (hsucc.trans_le hmid).trans (hbelow q hq)⟩, hbelow, hrest⟩

theorem openRanges_of_probing {d : Disc} (h : probing d.ds = true) : openRanges d = ⟨d.curLo, d.curHi⟩ :: liveStack d :=
  if_pos h

theorem openRanges_of_not_probing {d : Disc} (h : probing d.ds = false) : openRanges d = liveStack d := by
  simp [openRanges, h]

/-- An empty stack, and no range being probed. -/
theorem openRanges_of_empty {d : Disc} (hd : probing d.ds = false) (hsp : d.sp = 0) : openRanges d = [] := by
  simp [openRanges_of_not_probing hd, liveStack, hsp]

/-- The range pushed last is the top of the stack. -/
theorem liveStack_eq_top_cons {d : Disc} (hpos : 0 < d.sp) (hsp : d.sp ≤ d.stk.length) :
    liveStack d = d.stk.getD (d.sp - 1) ⟨0, 0⟩ :: (d.stk.take (d.sp - 1)).reverse := by
  obtain ⟨n, hn⟩ := Nat.exists_eq_succ_of_ne_zero hpos.ne'
  have hlt : n < d.stk.length := by omega
  rw [liveStack, hn, Nat.succ_sub_one, ← List.take_append_getElem hlt, List.reverse_append, List.getD_eq_getElem _ _ hlt]
  rfl

/-- Two ranges pushed on a stack (R246). -/
theorem take_push_push {stk : List UidRange} {n : Nat} (h : n + 2 ≤ stk.length) (q r : UidRange) :
    (((stk.set n q).set (n + 1) r).take (n + 2)).reverse = r :: q :: (stk.take n).reverse := by
  have hn : n < stk.length := by omega
  have hn1 : n + 1 < stk.length := by omega
  simp [List.take_add_one, List.take_set_of_le, hn, hn1]

/-! ### The invariant -/

/-- What keeps the stack and leaves the open ranges, or drops the lowest. -/
theorem SearchSound.of_open {s t : State} (h : SearchSound s) (hcfg : t.cfg = s.cfg) (hstk : t.de.stk = s.de.stk)
    (hsp : t.de.sp = s.de.sp) (hopen : openRanges t.de = openRanges s.de ∨ openRanges t.de = (openRanges s.de).tail) :
    SearchSound t := by
  obtain ⟨hlen, hle, hranges⟩ := (searchSound_iff s).mp h
  refine (searchSound_iff t).mpr ⟨by rw [hstk, hcfg, hlen], by rw [hsp, hcfg]; exact hle, ?_⟩
  rcases hopen with e | e <;> rw [e]
  · exact hranges
  · exact hranges.tail

/-- What empties the stack and probes nothing. -/
theorem SearchSound.of_empty {t : State} (hlen : t.de.stk.length = t.cfg.stackCap) (hd : probing t.de.ds = false)
    (hsp : t.de.sp = 0) : SearchSound t :=
  (searchSound_iff t).mpr ⟨hlen, by omega, by rw [openRanges_of_empty hd hsp]; exact .nil⟩

theorem resetWith_searchSound (c : Cfg) (e : Env) : SearchSound (State.resetWith c e) :=
  .of_empty (by simp [State.resetWith]) rfl rfl

theorem startDiscovery_searchSound {s : State} (h : SearchSound s) (hw : s.cfg.wf = true) : SearchSound (startDiscovery s) := by
  obtain ⟨-, -, hcap⟩ := cfg_wf_discovery hw
  have hlen := h.1
  have hpos : 0 < s.de.stk.length := by omega
  refine (searchSound_iff _).mpr ⟨by simpa [startDiscovery] using hlen, by simp [startDiscovery]; omega, ?_⟩
  have hopen : openRanges (startDiscovery s).de = [wholeRange] := by
    simp [openRanges, startDiscovery, probing, liveStack, List.take_one, List.head?_eq_getElem?, hpos]
  rw [hopen]
  exact .whole

/-- Another state of a pass: a range being probed is decided, or goes on being probed. -/
theorem setDs_searchSound {s : State} (h : SearchSound s) (q : Ds) (hq : probing q = true → probing s.de.ds = true) :
    SearchSound (setDs q s) := by
  refine h.of_open rfl rfl rfl ?_
  cases hp : probing q with
  | true => exact .inl (by rw [openRanges_of_probing (hq hp), openRanges_of_probing (d := (setDs q s).de) hp]; rfl)
  | false =>
    rw [openRanges_of_not_probing (d := (setDs q s).de) hp]
    cases hs : probing s.de.ds with
    | true => exact .inr (by rw [openRanges_of_probing hs]; rfl)
    | false => exact .inl (by rw [openRanges_of_not_probing hs]; rfl)

/-- The range pushed last is probed (R235). -/
theorem take_searchSound {s : State} {r : UidRange} (h : SearchSound s) (hd : s.de.ds = .pop) (hpos : 0 < s.de.sp)
    (hr : s.de.stk.getD (s.de.sp - 1) ⟨0, 0⟩ = r) :
    SearchSound { s with de := { s.de with sp := s.de.sp - 1, curLo := r.lo, curHi := r.hi, retry := 0, ds := .branchTx } } := by
  obtain ⟨hlen, hle, hranges⟩ := (searchSound_iff s).mp h
  rw [openRanges_of_not_probing (by rw [hd]; rfl), liveStack_eq_top_cons hpos (hlen ▸ hle), hr] at hranges
  exact (searchSound_iff _).mpr ⟨hlen, by simp only; omega, hranges⟩

/-- A split has room, and puts the halves on the stack (R246). -/
theorem splitRange_searchSound {s : State} (h : SearchSound s) (hp : probing s.de.ds = true) (hne : s.de.curLo ≠ s.de.curHi)
    (hroom : s.de.sp + 2 ≤ s.cfg.stackCap) : SearchSound (splitRange s) := by
  obtain ⟨hlen, -, hranges⟩ := (searchSound_iff s).mp h
  rw [openRanges_of_probing hp] at hranges
  refine (searchSound_iff _).mpr ⟨by simpa [splitRange] using hlen, hroom, ?_⟩
  have hopen : openRanges (splitRange s).de = _ := take_push_push (hlen ▸ hroom) _ _
  rw [hopen]
  exact hranges.split hne

/-- Settles O51: a range is opened whole, split into halves, or decided; nothing else happens to the open ranges. -/
theorem stepKeepsSearchSound : Obligations.StepKeepsSearchSound := by
  intro s t hs hstep
  refine step_preserves_discovery (P := SearchSound) ?quiet (fun s _ => resetWith_searchSound s.cfg s.env)
    (fun s h => .of_empty h.1 rfl rfl) (fun s h hw => startDiscovery_searchSound h hw) (fun s h _ => .of_empty h.1 rfl rfl)
    (fun s h => .of_empty h.1 rfl rfl) (fun q s h _ _ hq _ => setDs_searchSound h q hq) ?confirm ?isolate
    (fun r s h hd hpos hr => take_searchSound h hd hpos hr) ?collide hs hstep
  case quiet =>
    rintro s t h ⟨hcfg, hde⟩
    exact h.of_open hcfg (by rw [hde]) (by rw [hde]) (.inl (by rw [hde]; rfl))
  case confirm =>
    intro s h _
    rw [recordUid_eq]
    exact setDs_searchSound (s := { s with de := _ }) (h.of_open rfl rfl rfl (.inl rfl)) _ (by simp [probing])
  case isolate =>
    intro u s h _ _
    exact setDs_searchSound (s := { s with de := { s.de with isoUid := u } }) (h.of_open rfl rfl rfl (.inl rfl)) _ (by simp [probing])
  case collide =>
    intro s t h hp hc
    rcases collision_next hc with ⟨-, -, rfl⟩ | ⟨-, -, rfl⟩ | ⟨hne, hroom, rfl⟩
    · exact setDs_searchSound (s := { s with de := { s.de with retry := s.de.retry + 1 } })
        (h.of_open rfl rfl rfl (.inl rfl)) _ (fun _ => hp)
    · rw [abandonUid_eq]
      exact setDs_searchSound (s := { s with de := _ }) (h.of_open rfl rfl rfl (.inl rfl)) _ (by simp [probing])
    · exact splitRange_searchSound h hp hne hroom

end Sys2Proof.Machine
end

section
/-! SUPPORT. The results of discovery (R50, R52, R246, R260, R261): the lists, the isolated UID, the repeats and `DISC_STATUS`. -/

namespace Sys2Proof.Machine

/-- What is in a list after a UID is recorded (R260). -/
theorem mem_listAfter {cap : Option Nat} {l : List Uid} {u v : Uid} (h : v ∈ listAfter cap l u) : v ∈ l ∨ v = u := by
  unfold listAfter at h
  split at h
  · exact .inl h
  · simpa using h

theorem ListSound.nil (cap : Option Nat) : ListSound cap [] := ⟨.nil, by simp⟩

/-- No result, no pass: after reset and ATTACH. -/
theorem ResultsSound.of_cleared {c : Cfg} {d : Disc} (hconf : d.conf = []) (habnd : d.abnd = []) (hds : d.ds = .idle)
    (hretry : d.retry = 0) (hstatus : d.discStatus = .none) : ResultsSound c d where
  confirmed := hconf ▸ .nil _
  abandoned := habnd ▸ .nil _
  confirmed_real := by simp [hconf]
  isolated_real := by simp [hds, muting]
  retry_bounded := by simp [hretry]
  running_iff := by simp [hds, hstatus]

/-- A pass begins without results (R232). -/
theorem startDiscovery_resultsSound (s : State) : ResultsSound s.cfg (startDiscovery s).de where
  confirmed := .nil _
  abandoned := .nil _
  confirmed_real := by simp [startDiscovery]
  isolated_real := by simp [startDiscovery, muting]
  retry_bounded := by simp [startDiscovery]
  running_iff := by simp [startDiscovery]

section
variable {s : State} (h : ResultsSound s.cfg s.de)
include h

/-- Another state of the same pass. -/
theorem setDs_resultsSound (q : Ds) (hd : s.de.ds ≠ .idle) (hq : q ≠ .idle)
    (hm : muting q = true → muting s.de.ds = true) : ResultsSound s.cfg (setDs q s).de :=
  { h with
    isolated_real := fun hmq => h.isolated_real (hm hmq)
    running_iff := iff_of_true (h.running_iff.mpr hd) hq }

theorem cancelPass_resultsSound (hd : s.de.ds ≠ .idle) : ResultsSound s.cfg (cancelPass s).de :=
  { h with
    isolated_real := by simp [muting]
    running_iff := iff_of_true (h.running_iff.mpr hd) (by simp) }

/-- The end of a pass keeps its results, or releases them (R252). -/
theorem finishPass_resultsSound : ResultsSound s.cfg (finishPass s).de := by
  cases hc : s.de.cancelling with
  | true => exact {
      confirmed := by simp [hc, ListSound.nil]
      abandoned := by simp [hc, ListSound.nil]
      confirmed_real := by simp [hc]
      isolated_real := by simp [muting]
      retry_bounded := h.retry_bounded
      running_iff := by simp [hc] }
  | false => exact {
      confirmed := by simpa [hc] using h.confirmed
      abandoned := by simpa [hc] using h.abandoned
      confirmed_real := by simpa [hc] using h.confirmed_real
      isolated_real := by simp [muting]
      retry_bounded := h.retry_bounded
      running_iff := by simp [hc] }

/-- The UID muted is recorded, and it is no reserved one (R245, R248). -/
theorem confirm_resultsSound (hd : s.de.ds = .muteTx) :
    ResultsSound s.cfg (setDs .muteWait (recordUid s.de.isoUid s)).de := by
  have hreal : reservedUid s.de.isoUid = false := h.isolated_real (by rw [hd]; rfl)
  rw [recordUid_eq]
  exact { h with
    confirmed := listAfter_sound h.confirmed _
    confirmed_real := fun u hu => (mem_listAfter hu).elim (h.confirmed_real u) (fun e => e ▸ hreal)
    isolated_real := fun _ => hreal
    running_iff := iff_of_true (h.running_iff.mpr (by simp [hd])) (by simp) }

/-- A UID is isolated (R245). -/
theorem isolate_resultsSound {u : Uid} (hd : s.de.ds = .branchRx) (hu : reservedUid u = false) :
    ResultsSound s.cfg { s.de with isoUid := u, ds := .muteTx } :=
  { h with
    isolated_real := fun _ => hu
    running_iff := iff_of_true (h.running_iff.mpr (by simp [hd])) (by simp) }

/-- A range is probed for the first time (R235). -/
theorem take_resultsSound (r : UidRange) (hd : s.de.ds = .pop) : ResultsSound s.cfg
    { s.de with sp := s.de.sp - 1, curLo := r.lo, curHi := r.hi, retry := 0, ds := .branchTx } :=
  { h with
    isolated_real := by simp [muting]
    retry_bounded := Nat.zero_le _
    running_iff := iff_of_true (h.running_iff.mpr (by simp [hd])) (by simp) }

/-- A collision repeats a leaf within the bound, abandons it, or splits the range (R246). -/
theorem collision_resultsSound {t : State} (hp : probing s.de.ds = true) (hc : collision s = .next t) :
    ResultsSound t.cfg t.de := by
  have hrun : s.de.discStatus = .running := h.running_iff.mpr (by rintro e; simp [e, probing] at hp)
  rcases collision_next hc with ⟨-, hlt, rfl⟩ | ⟨-, -, rfl⟩ | ⟨-, -, rfl⟩
  · exact { h with
      isolated_real := by simp [muting]
      retry_bounded := hlt
      running_iff := iff_of_true hrun (by simp) }
  · rw [abandonUid_eq]
    exact { h with
      abandoned := listAfter_sound h.abandoned _
      isolated_real := by simp [muting]
      running_iff := iff_of_true hrun (by simp) }
  · exact { h with
      isolated_real := by simp [splitRange, muting]
      running_iff := iff_of_true hrun (by simp [splitRange]) }

end

/-- Settles O53: each move of a pass keeps the results sound. -/
theorem stepKeepsResultsSound : Obligations.StepKeepsResultsSound := by
  intro s t hs hstep
  refine step_preserves_discovery (P := fun s => ResultsSound s.cfg s.de) ?quiet
    (fun s _ => .of_cleared rfl rfl rfl rfl rfl) (fun s _ => .of_cleared rfl rfl rfl rfl rfl)
    (fun s _ _ => startDiscovery_resultsSound s) (fun s h hd => cancelPass_resultsSound (s := s) h hd)
    (fun s h => finishPass_resultsSound h) (fun q s h hd hq _ hm => setDs_resultsSound h q hd hq hm) ?confirm
    (fun u s h hd hu => isolate_resultsSound h hd hu) (fun r s h hd _ _ => take_resultsSound h r hd)
    (fun s t h hp hc => collision_resultsSound h hp hc) hs hstep
  case quiet =>
    rintro s t h ⟨hcfg, hde⟩
    rw [hcfg, hde]
    exact { h with }
  case confirm =>
    intro s h hd
    have hcfg : (setDs .muteWait (recordUid s.de.isoUid s)).cfg = s.cfg := by rw [recordUid_eq]; rfl
    rw [hcfg]
    exact confirm_resultsSound h hd

end Sys2Proof.Machine
end

section
/-! SUPPORT. The modes (R21 to R23, R301): a pass of one sequencer starts in mode NORMAL only, and needs the handle. -/

namespace Sys2Proof.Machine

/-- The modes depend on the handle, the dispatcher's `iq` and `irq_pending`, and `ds`. -/
theorem ModesExclusive.of_eq {s t : State} (h : ModesExclusive s) (ha : t.attached = s.attached) (hi : t.irqd = s.irqd)
    (hd : t.de.ds = s.de.ds) : ModesExclusive t := by
  rwa [ModesExclusive, ha, hi, hd]

theorem ModesExclusive.of_iq_idle {t : State} (ha : t.attached = true) (hi : t.irqd.iq = .idle) : ModesExclusive t :=
  ⟨.inl hi, by simp [ha]⟩

theorem ModesExclusive.of_ds_idle {t : State} (ha : t.attached = true) (hd : t.de.ds = .idle) : ModesExclusive t :=
  ⟨.inr hd, by simp [ha]⟩

/-- While the dispatcher runs there is a handle and no discovery pass. -/
theorem ModesExclusive.of_dispatching {s : State} (h : ModesExclusive s) (hi : s.irqd.iq ≠ .idle) :
    s.attached = true ∧ s.de.ds = .idle := by
  obtain ⟨hex, hno⟩ := h
  exact ⟨by simpa using mt hno fun e => hi e.1, hex.resolve_left hi⟩

/-- During a discovery pass there is a handle and the dispatcher is idle. -/
theorem ModesExclusive.of_discovering {s : State} (h : ModesExclusive s) (hd : s.de.ds ≠ .idle) :
    s.attached = true ∧ s.irqd.iq = .idle := by
  obtain ⟨hex, hno⟩ := h
  exact ⟨by simpa using mt hno fun e => hd e.2.1, hex.resolve_right hd⟩

/-- A step of the dispatcher in a pass. -/
theorem ModesExclusive.dispatching {s t : State} (h : ModesExclusive s) (hi : s.irqd.iq ≠ .idle)
    (ha : t.attached = s.attached) (hd : t.de = s.de) : ModesExclusive t := by
  obtain ⟨hatt, hidle⟩ := h.of_dispatching hi
  exact .of_ds_idle (ha.trans hatt) (by rw [hd, hidle])

/-- A step of the discovery engine in a pass. -/
theorem ModesExclusive.discovering {s t : State} (h : ModesExclusive s) (hd : s.de.ds ≠ .idle)
    (ha : t.attached = s.attached) (hi : t.irqd = s.irqd) : ModesExclusive t := by
  obtain ⟨hatt, hidle⟩ := h.of_discovering hd
  exact .of_iq_idle (ha.trans hatt) (by rw [hi, hidle])

/-- Without a handle, and with everything quiet: after reset and DETACH. -/
theorem ModesExclusive.of_quiet {t : State} (hi : t.irqd.iq = .idle) (hd : t.de.ds = .idle)
    (hp : t.irqd.irqPending = false) : ModesExclusive t :=
  ⟨.inl hi, fun _ => ⟨hi, hd, hp⟩⟩

@[simp] theorem requestCancel_ds (s : State) : (requestCancel s).de.ds = s.de.ds := by rw [requestCancel_eq]

@[simp] theorem requestCancel_attached (s : State) : (requestCancel s).attached = s.attached := by rw [requestCancel_eq]

@[simp] theorem pollBody_attached (s : State) : (pollBody s).attached = s.attached := by unfold pollBody; split <;> rfl

@[simp] theorem pollBody_de (s : State) : (pollBody s).de = s.de := by unfold pollBody; split <;> rfl

/-- The request of a sending state is a step of the pass that the state is in. -/
theorem request_modesExclusive {i : Instr} {s : State} (h : ModesExclusive s) (hk : opClass i = none) :
    ModesExclusive (accepted i s) := by
  rcases accepted_request_cases s hk with e | ⟨-, hd, e⟩ | ⟨-, hd, e⟩ | ⟨-, hd, e⟩ <;> rw [e]
  · exact h
  · exact h.discovering (by simp [hd]) (branchTx_attached s) (branchTx_irqd s)
  · exact h.discovering (by simp [hd]) (muteTx_attached s) (muteTx_irqd s)
  · exact h.discovering (by simp [hd]) (unmuteTx_attached s) (unmuteTx_irqd s)

/-- An accepted instruction keeps the modes exclusive: POLL and DISCSTART are accepted in mode NORMAL only. -/
theorem accepted_modesExclusive {i : Instr} {s : State} (h : ModesExclusive s)
    (ha : ∀ k, opClass i = some k → acceptance k (portColumn s) = .accept) : ModesExclusive (accepted i s) := by
  cases i with
  | poll =>
    obtain ⟨hatt, -, hd⟩ := inNormal_of_accept (.inl rfl) (ha .poll rfl)
    exact .of_ds_idle ((pollBody_attached s).trans hatt) (by rw [accepted, pollBody_de, hd])
  | hret => exact h.dispatching (by simp [(inCall_of_accept (ha .hret rfl)).2]) rfl rfl
  | attach => exact .of_quiet rfl rfl rfl
  | detach =>
    obtain ⟨-, hi, hd⟩ := inNormal_of_accept (.inr (.inr rfl)) (ha .detach rfl)
    exact .of_quiet hi hd rfl
  | discstart =>
    obtain ⟨hatt, hi, -⟩ := inNormal_of_accept (.inr (.inl rfl)) (ha .discstart rfl)
    exact .of_iq_idle hatt hi
  | disccancel => exact h.of_eq (requestCancel_attached s) (requestCancel_irqd s) (requestCancel_ds s)
  | discUniqueBranch | discMute | discUnMute => exact request_modesExclusive h rfl
  | _ => exact h.of_eq (accepted_attached _ s (by simp)) (accepted_irqd _ s (by simp)) (by rw [accepted_de _ s (by simp [opClass])])

/-- Settles O49: a pass starts in mode NORMAL, its steps are its own, and the handle goes in mode NORMAL only. -/
theorem stepKeepsModesExclusive : Obligations.StepKeepsModesExclusive := by
  intro s t hs hstep
  refine step_preserves (P := ModesExclusive) (fun _ _ h => h) (fun i s h _ ha => accepted_modesExclusive h ha) (fun _ h => h)
    (fun s h => h.of_eq (requestCancel_attached s) (requestCancel_irqd s) (requestCancel_ds s)) ?write (fun _ _ h => h) ?irq ?event
    (fun _ _ _ => .of_quiet rfl rfl rfl) (fun _ _ h => h) ?dispatcher ?pop ?branchRx ?muteRx ?unwind hs hstep
  case write => intro w s t h _ hw; rw [hostWrite_frame hw]; exact h
  case irq =>
    intro s h
    unfold irqAssert
    split
    next ha => exact ⟨h.1, by simp [ha]⟩
    next => exact h
  case event =>
    intro e s t h _ he
    by_cases hd : s.de.ds = .idle
    · have hsame : t = s := by simpa [deliverEvent, hd, eq_comm] using he
      rwa [hsame]
    · rw [deliverEvent_frame he]
      exact h.discovering hd rfl rfl
  case dispatcher =>
    intro s h _
    exact ⟨fun hi => h.dispatching (by simp [hi]) (stepRdflags_attached s) (stepRdflags_de s),
      fun hi => h.dispatching (by simp [hi]) (stepRdext_attached s) (stepRdext_de s),
      fun hi => h.dispatching (by simp [hi]) (stepDispatch_attached s) (stepDispatch_de s),
      fun hi => h.dispatching (by simp [hi]) (stepWbext_attached s) (stepWbext_de s),
      fun hi => h.dispatching (by simp [hi]) (stepWbflags_attached s) (stepWbflags_de s)⟩
  case pop => intro s h _ _ hd; rw [stepPop_frame]; exact h.discovering (by simp [hd]) rfl rfl
  case branchRx => intro s t h _ _ hd he; rw [stepBranchRx_frame he]; exact h.discovering (by simp [hd]) rfl rfl
  case muteRx => intro s h _ _ hd; rw [stepMuteRx_frame]; exact h.discovering (by simp [hd]) rfl rfl
  case unwind => intro s h _ _ hd; exact h.discovering (by rcases hd with hd | hd <;> simp [hd]) rfl rfl

end Sys2Proof.Machine
end

section
/-! SUPPORT. The byte memories (R24, R25, R55; log 5): `OBUF` is written by the HOST only, `RBUF` and `DBUF`
from their start, as far as they go. -/

namespace Sys2Proof.Machine

/-- A memory of `cap` bytes, in canonical form. -/
def Memory.Fits (cap : Nat) (m : Memory) : Prop := m.wf ∧ ∀ c ∈ m, c.1 < cap

theorem buffersSound_iff (s : State) : BuffersSound s ↔
    s.port.obuf.Fits s.cfg.bufCap ∧ s.res.rbuf.Fits s.cfg.bufCap ∧ s.de.dbuf.Fits s.cfg.dbufCap := Iff.rfl

theorem Memory.Fits.nil (cap : Nat) : Memory.Fits cap [] := ⟨Memory.wf_nil, by simp⟩

theorem Memory.Fits.writeBytes {cap a : Nat} {m : Memory} {bs : List Byte} (h : m.Fits cap) (hlen : a + bs.length ≤ cap) :
    (m.writeBytes a bs).Fits cap :=
  ⟨Memory.writeBytes_wf h.1 a bs, Memory.writeBytes_bounded h.2 hlen⟩

/-- Bytes stored from the start, as far as the memory goes. -/
theorem Memory.Fits.store {cap : Nat} {m : Memory} (h : m.Fits cap) (d : List Byte) : (m.writeBytes 0 (d.take cap)).Fits cap :=
  h.writeBytes (by simp)

/-! ### `RBUF` (R25) -/

/-- An operation keeps `RBUF` in its bounds. -/
def KeepsRbuf (s t : State) : Prop := s.res.rbuf.Fits s.cfg.bufCap → t.res.rbuf.Fits s.cfg.bufCap

theorem KeepsRbuf.of_eq {s t : State} (h : t.res.rbuf = s.res.rbuf) : KeepsRbuf s t := fun hs => h ▸ hs

/-- What `deliver` leaves in `RBUF`. -/
theorem KeepsRbuf.of_store {s t : State} (d : List Byte) (h : t.res.rbuf = s.res.rbuf.writeBytes 0 (d.take s.cfg.bufCap)) :
    KeepsRbuf s t := fun hs => h ▸ hs.store d

theorem readRegister_keepsRbuf (a : Byte) (n : Nat) (s : State) : KeepsRbuf s (readRegister a n s) := by
  rcases readRegister_cases a n s with ⟨-, e⟩ | ⟨_, -, -, ⟨-, e⟩ | ⟨-, -, e⟩ | ⟨-, -, e⟩⟩ <;> rw [e]
  · exact .of_eq rfl
  · exact .of_eq rfl
  · exact .of_eq rfl
  · exact .of_store _ rfl

theorem writeRegister_keepsRbuf (a : Byte) (n : Nat) (s : State) : KeepsRbuf s (writeRegister a n s) := by
  rcases writeRegister_cases a n s with ⟨-, e⟩ | ⟨_, -, -, ⟨-, e⟩ | ⟨-, e⟩⟩ <;> rw [e] <;> exact .of_eq rfl

theorem readWindow_keepsRbuf (cmd : Byte) (n : Nat) (s : State) : KeepsRbuf s (readWindow cmd n s) := by
  rcases readWindow_cases cmd n s with ⟨-, e⟩ | ⟨-, e⟩ <;> rw [e]
  · exact .of_eq rfl
  · exact .of_store _ rfl

theorem writeWindow_keepsRbuf (cmd : Byte) (n : Nat) (s : State) : KeepsRbuf s (writeWindow cmd n s) := by
  rcases writeWindow_cases cmd n s with ⟨-, e⟩ | ⟨-, e⟩ <;> rw [e] <;> exact .of_eq rfl

theorem checkedWrite_keepsRbuf (cmd : Byte) (n : Nat) (s : State) : KeepsRbuf s (checkedWrite cmd n s) := by
  rcases checkedWrite_cases cmd n s with ⟨-, e⟩ | ⟨-, -, e⟩ <;> rw [e] <;> exact .of_eq rfl

/-- The counter is taken into the fields, or nothing happens (R204). -/
theorem takeAutoTn_eq (s : State) : takeAutoTn s =
    { s with
      tn := if a0Flag s then s.tn + 1 else s.tn
      f := { s.f with tn := if a0Flag s then s.tn else s.f.tn } } := by
  unfold takeAutoTn
  split <;> simp [*, advanceTn]

/-- Everything RDMENC can do once it is accepted (R24, R201). -/
theorem rdmEncode_cases (s : State) :
    ((230 < s.port.len.toNat ∨ s.cfg.bufCap < s.port.len.toNat) ∧ rdmEncode s = raise .lengthMismatch 0 s)
      ∨ (s.port.len.toNat ≤ 230 ∧ s.port.len.toNat ≤ s.cfg.bufCap
          ∧ rdmEncode s = encodeToRbuf s.port.len.toNat (takeAutoTn s)) := by
  by_cases h : 230 < s.port.len.toNat ∨ s.cfg.bufCap < s.port.len.toNat
  · exact .inl ⟨h, if_pos h⟩
  · exact .inr ⟨by omega, by omega, if_neg h⟩

theorem rdmEncode_keepsRbuf (s : State) : KeepsRbuf s (rdmEncode s) := by
  rcases rdmEncode_cases s with ⟨-, e⟩ | ⟨-, -, e⟩ <;> rw [e]
  · exact .of_eq rfl
  · rw [takeAutoTn_eq]
    exact .of_store _ rfl

theorem rdmDecode_keepsRbuf (s : State) : KeepsRbuf s (rdmDecode s) := by
  rcases rdmDecode_cases s with ⟨-, e⟩ | ⟨-, ⟨_, -, e⟩ | ⟨_, _, -, e⟩⟩ <;> rw [e]
  · exact .of_eq rfl
  · exact .of_eq rfl
  · unfold writeDecoded
    split <;> exact .of_store _ rfl

theorem pollBody_keepsRbuf (s : State) : KeepsRbuf s (pollBody s) := by
  unfold pollBody
  split <;> exact .of_eq rfl

theorem branchTx_keepsRbuf (s : State) : KeepsRbuf s (branchTx s) := by
  rw [branchTx_eq]
  split <;> exact .of_eq rfl

theorem muteTx_keepsRbuf (s : State) : KeepsRbuf s (muteTx s) := by
  rw [muteTx_eq]
  split <;> exact .of_eq rfl

theorem request_keepsRbuf {i : Instr} {s : State} (hk : opClass i = none) : KeepsRbuf s (accepted i s) := by
  rcases accepted_request_cases s hk with e | ⟨-, -, e⟩ | ⟨-, -, e⟩ | ⟨-, -, e⟩ <;> rw [e]
  · exact .of_eq rfl
  · exact branchTx_keepsRbuf s
  · exact muteTx_keepsRbuf s
  · exact .of_eq rfl

/-- No instruction writes `RBUF` beyond its capacity. -/
theorem accepted_keepsRbuf (i : Instr) (s : State) : KeepsRbuf s (accepted i s) := by
  cases i with
  | rdreg | busRdreg => exact readRegister_keepsRbuf _ _ s
  | wrreg | busWrreg => exact writeRegister_keepsRbuf _ _ s
  | rddmx | busRddmx | rdasc | busRdasc | rdrdm | busRdrdm => exact readWindow_keepsRbuf _ _ s
  | wrdmx | wrrdm | fwblk1 | fwblk2 => exact checkedWrite_keepsRbuf _ _ s
  | busWrdmx | busWrrdm | busFwblk1 | busFwblk2 => exact writeWindow_keepsRbuf _ _ s
  | rdmenc => exact rdmEncode_keepsRbuf s
  | rdmdec => exact rdmDecode_keepsRbuf s
  | poll => exact pollBody_keepsRbuf s
  | nop | busNop | hret | attach | detach | discstart => exact .of_eq rfl
  | disccancel => exact .of_eq (by rw [accepted, requestCancel_eq]; rfl)
  | discUniqueBranch | discMute | discUnMute => exact request_keepsRbuf rfl

theorem readFlagRegister_rbuf (a : Byte) (s : State) : (readFlagRegister a s).2.res.rbuf = s.res.rbuf := by
  rcases readFlagRegister_frame a s with e | ⟨_, e⟩ <;> rw [e]
  rfl

theorem writeBack_rbuf (a : Byte) (v : Nat) (s : State) : (writeBack a v s).res.rbuf = s.res.rbuf := by
  rcases writeBack_frame a v s with e | ⟨_, e⟩ <;> rw [e]
  rfl

theorem stepRdflags_rbuf (s : State) : (stepRdflags s).res.rbuf = s.res.rbuf := by
  have h := readFlagRegister_rbuf s.cfg.irqFlagsAddr s
  unfold stepRdflags
  split
  next e t hread => rw [hread] at h; exact h
  next obs t hread => rw [hread] at h; exact h

theorem stepRdext_rbuf (s : State) : (stepRdext s).res.rbuf = s.res.rbuf := by
  have h := readFlagRegister_rbuf s.cfg.extIrqFlagsAddr s
  unfold stepRdext
  split
  next e t hread => rw [hread] at h; exact h
  next obs t hread => rw [hread] at h; exact h

theorem stepDispatch_rbuf (s : State) : (stepDispatch s).res.rbuf = s.res.rbuf := by
  unfold stepDispatch
  split <;> rfl

theorem stepWbext_rbuf (s : State) : (stepWbext s).res.rbuf = s.res.rbuf := writeBack_rbuf _ _ s

theorem stepWbflags_rbuf (s : State) : (stepWbflags s).res.rbuf = s.res.rbuf := writeBack_rbuf _ _ s

/-! ### `DBUF` (R55) -/

/-- A step of the discovery engine keeps `DBUF` in its bounds. -/
def KeepsDbuf (s t : State) : Prop := s.de.dbuf.Fits s.cfg.dbufCap → t.de.dbuf.Fits s.cfg.dbufCap

theorem KeepsDbuf.of_eq {s t : State} (h : t.de.dbuf = s.de.dbuf) : KeepsDbuf s t := fun hs => h ▸ hs

/-- What `fillDbuf` leaves in `DBUF`. -/
theorem KeepsDbuf.of_store {s t : State} (d : List Byte) (h : t.de.dbuf = s.de.dbuf.writeBytes 0 (d.take s.cfg.dbufCap)) :
    KeepsDbuf s t := fun hs => h ▸ hs.store d

theorem branchTx_keepsDbuf (s : State) : KeepsDbuf s (branchTx s) := by
  rw [branchTx_eq]
  split
  · exact .of_eq rfl
  · exact .of_store _ rfl

theorem muteTx_keepsDbuf (s : State) : KeepsDbuf s (muteTx s) := by
  rw [muteTx_eq]
  split
  · exact .of_eq rfl
  · exact .of_store _ rfl

theorem unmuteTx_keepsDbuf (s : State) : KeepsDbuf s (unmuteTx s) := by
  rw [unmuteTx_eq]
  exact .of_store _ rfl

theorem request_keepsDbuf {i : Instr} {s : State} (hk : opClass i = none) : KeepsDbuf s (accepted i s) := by
  rcases accepted_request_cases s hk with e | ⟨-, -, e⟩ | ⟨-, -, e⟩ | ⟨-, -, e⟩ <;> rw [e]
  · exact .of_eq rfl
  · exact branchTx_keepsDbuf s
  · exact muteTx_keepsDbuf s
  · exact unmuteTx_keepsDbuf s

/-- Only the three requests write `DBUF`, and none beyond its capacity. -/
theorem accepted_keepsDbuf (i : Instr) (s : State) : KeepsDbuf s (accepted i s) := by
  cases i with
  | attach | discstart => exact .of_eq rfl
  | disccancel => exact .of_eq (by rw [accepted, requestCancel_eq]; rfl)
  | discUniqueBranch | discMute | discUnMute => exact request_keepsDbuf rfl
  | _ => exact .of_eq (by rw [accepted_de _ s (by simp [opClass])])

theorem collision_dbuf {s t : State} (h : collision s = .next t) : t.de.dbuf = s.de.dbuf := by
  rcases collision_next h with ⟨-, -, rfl⟩ | ⟨-, -, rfl⟩ | ⟨-, -, rfl⟩
  · rfl
  · rw [abandonUid_eq]; rfl
  · rfl

theorem deliverEvent_dbuf {e : RespEvent} {s t : State} (h : deliverEvent e s = .next t) : t.de.dbuf = s.de.dbuf := by
  rcases deliverEvent_next h with rfl | ⟨-, -, rfl⟩ | ⟨-, -, rfl⟩ | ⟨-, -, rfl⟩ | ⟨-, -, hc⟩ | ⟨-, -, rfl⟩ | ⟨-, -, rfl⟩
  case inr.inr.inr.inr.inl => rw [collision_dbuf hc]; rfl
  all_goals rfl

theorem stepPop_dbuf (s : State) : (stepPop s).de.dbuf = s.de.dbuf := by
  rcases stepPop_cases s with e | e | e | ⟨-, r, -, e⟩ <;> rw [e] <;> rfl

theorem stepBranchRx_keepsDbuf {s t : State} (h : stepBranchRx s = .next t) : KeepsDbuf s t := by
  obtain ⟨m, u, hm, hstep⟩ := stepBranchRx_next h
  have hdbuf : t.de.dbuf = m := by
    rcases hstep with hc | ⟨-, rfl⟩
    · exact collision_dbuf hc
    · rfl
  rcases hm with rfl | ⟨b, -, rfl⟩
  · exact .of_eq hdbuf
  · exact .of_store b hdbuf

theorem stepMuteRx_keepsDbuf (s : State) : KeepsDbuf s (stepMuteRx s) := by
  unfold stepMuteRx bulkRead
  cases readData 0x83 s.cfg.lenRdrdm s with
  | none => exact .of_eq rfl
  | some d => exact .of_store d rfl

/-! ### The discovery engine and `RBUF` -/

theorem stepMuteRx_rbuf (s : State) : (stepMuteRx s).res.rbuf = s.res.rbuf := by
  unfold stepMuteRx bulkRead
  cases readData 0x83 s.cfg.lenRdrdm s <;> rfl

theorem stepBranchRx_rbuf {s t : State} (h : stepBranchRx s = .next t) : t.res.rbuf = s.res.rbuf := by
  obtain ⟨_, _, -, hc | ⟨-, rfl⟩⟩ := stepBranchRx_next h
  · rw [collision_frame hc]
  · rfl

/-! ### The invariant -/

theorem BuffersSound.of_keeps {s t : State} (h : BuffersSound s) (hcfg : t.cfg = s.cfg) (hport : t.port.obuf = s.port.obuf)
    (hrbuf : KeepsRbuf s t) (hdbuf : KeepsDbuf s t) : BuffersSound t := by
  obtain ⟨ho, hr, hd⟩ := (buffersSound_iff s).mp h
  rw [buffersSound_iff, hcfg, hport]
  exact ⟨ho, hrbuf hr, hdbuf hd⟩

theorem resetWith_buffersSound (c : Cfg) (e : Env) : BuffersSound (State.resetWith c e) :=
  ⟨Memory.Fits.nil _, Memory.Fits.nil _, Memory.Fits.nil _⟩

/-- No instruction writes the operand registers of the HOST. -/
theorem accepted_port (i : Instr) (s : State) : (accepted i s).port = s.port := by
  cases i with
  | poll => simp only [accepted, pollBody]; split <;> rfl
  | disccancel => rw [accepted, requestCancel_eq]; rfl
  | discUniqueBranch | discMute | discUnMute => simp only [accepted]; split <;> simp
  | hret | attach | detach | discstart => rfl
  | _ => simp [accepted]

/-- A HOST write of `OBUF` stays below `BUF_CAP` (R24). -/
theorem hostWrite_buffersSound {w : HostWrite} {s t : State} (h : BuffersSound s) (hw : hostWrite w s = .next t) : BuffersSound t := by
  obtain ⟨ho, hr, hd⟩ := (buffersSound_iff s).mp h
  cases w with
  | obuf i bytes =>
    simp only [hostWrite] at hw
    split at hw <;> cases hw
    next hlen => exact ⟨ho.writeBytes hlen, hr, hd⟩
  | _ => cases hw; exact h

/-- Settles O48: every write of a byte memory is cut to its capacity, and a HOST write beyond it stops the machine. -/
theorem stepKeepsBuffersSound : Obligations.StepKeepsBuffersSound := by
  intro s t hs hstep
  refine step_preserves (P := BuffersSound) (fun _ _ h => h)
    (fun i s h _ _ => h.of_keeps (accepted_cfg i s) (by rw [accepted_port]) (accepted_keepsRbuf i s) (accepted_keepsDbuf i s))
    (fun _ h => h) ?cancel (fun w s t h _ hw => hostWrite_buffersSound h hw) (fun _ _ h => h) ?irq ?event
    (fun s _ _ => resetWith_buffersSound s.cfg s.env) (fun _ _ h => h) ?dispatcher ?pop ?branchRx ?muteRx (fun _ h _ _ _ => h) hs hstep
  case cancel => intro s h; rw [requestCancel_eq]; exact h
  case irq => intro s h; unfold irqAssert; split <;> exact h
  case event =>
    intro e s t h _ he
    have hdbuf := deliverEvent_dbuf he
    rw [deliverEvent_frame he]
    exact h.of_keeps rfl rfl (.of_eq rfl) (.of_eq hdbuf)
  case dispatcher =>
    intro s h _
    exact ⟨fun _ => h.of_keeps (stepRdflags_cfg s) (by rw [stepRdflags_port]) (.of_eq (stepRdflags_rbuf s)) (.of_eq (by rw [stepRdflags_de])),
      fun _ => h.of_keeps (stepRdext_cfg s) (by rw [stepRdext_port]) (.of_eq (stepRdext_rbuf s)) (.of_eq (by rw [stepRdext_de])),
      fun _ => h.of_keeps (stepDispatch_cfg s) (by rw [stepDispatch_port]) (.of_eq (stepDispatch_rbuf s)) (.of_eq (by rw [stepDispatch_de])),
      fun _ => h.of_keeps (stepWbext_cfg s) (by rw [stepWbext_port]) (.of_eq (stepWbext_rbuf s)) (.of_eq (by rw [stepWbext_de])),
      fun _ => h.of_keeps (stepWbflags_cfg s) (by rw [stepWbflags_port]) (.of_eq (stepWbflags_rbuf s)) (.of_eq (by rw [stepWbflags_de]))⟩
  case pop =>
    intro s h _ _ _
    exact h.of_keeps (stepPop_cfg s) (by rw [stepPop_frame]) (.of_eq (by rw [stepPop_frame])) (.of_eq (stepPop_dbuf s))
  case branchRx =>
    intro s t h _ _ _ he
    have hframe := stepBranchRx_frame he
    exact h.of_keeps (by rw [hframe]) (by rw [hframe]) (.of_eq (stepBranchRx_rbuf he)) (stepBranchRx_keepsDbuf he)
  case muteRx =>
    intro s h _ _ _
    exact h.of_keeps (stepMuteRx_cfg s) (by rw [stepMuteRx_frame]) (.of_eq (stepMuteRx_rbuf s)) (stepMuteRx_keepsDbuf s)

end Sys2Proof.Machine
end

section
/-! SUPPORT. Who writes `irq_pending` (R22) and the transaction number (R53, R204, R238), and what the HOST can do without a handle (R300). -/

namespace Sys2Proof.Machine

/-! ### `irq_pending` -/

/-- POLL, ATTACH and DETACH may clear `irq_pending`; no other instruction touches it. -/
theorem accepted_irqPending (i : Instr) (s : State) :
    (accepted i s).irqd.irqPending = s.irqd.irqPending
      ∨ (accepted i s).irqd.irqPending = false ∧ (i = .poll ∨ i = .attach ∨ i = .detach) := by
  cases i with
  | poll =>
    rcases pollBody_irqd_cases s with e | e <;> rw [accepted, e]
    · exact .inr ⟨rfl, .inl rfl⟩
    · exact .inl rfl
  | attach => exact .inr ⟨rfl, .inr (.inl rfl)⟩
  | detach => exact .inr ⟨rfl, .inr (.inr rfl)⟩
  | hret => exact .inl rfl
  | _ => exact .inl (by rw [accepted_irqd _ s (by simp)])

theorem exec_irqPending {i : Instr} {s t : State} (h : exec i s = .next t) :
    t.irqd.irqPending = s.irqd.irqPending
      ∨ t.irqd.irqPending = false ∧ (i = .poll ∨ i = .attach ∨ i = .detach) := by
  rcases exec_next h with ⟨-, -, -, rfl⟩ | ⟨-, rfl⟩ | rfl | rfl | ⟨-, -, rfl⟩
  · exact accepted_irqPending i (dropOffer s)
  · exact accepted_irqPending i s
  · exact .inl rfl
  · exact .inl rfl
  · exact .inl (by rw [requestCancel_irqd])

/-- Settles O56: an instruction that runs is one of the three, or leaves the flag. -/
theorem irqPendingWriters : Obligations.IrqPendingWriters := by
  intro i s t h
  rcases exec_irqPending h with e | ⟨e, hi⟩
  · exact ⟨.inl e, fun _ _ _ => e⟩
  · exact ⟨.inr e, fun hpoll hattach hdetach => by rcases hi with hi | hi | hi <;> contradiction⟩

/-! ### The transaction number -/

@[simp] theorem encodeToRbuf_tn (p : Nat) (s : State) : (encodeToRbuf p s).tn = s.tn := by
  simp only [encodeToRbuf, complete_tn, deliver_tn]

theorem rdmEncode_tn (s : State) : (rdmEncode s).tn = s.tn ∨ (rdmEncode s).tn = s.tn + 1 ∧ a0Flag s = true := by
  rcases rdmEncode_cases s with ⟨-, e⟩ | ⟨-, -, e⟩ <;> rw [e]
  · exact .inl rfl
  · rw [encodeToRbuf_tn, takeAutoTn_eq]
    cases ha : a0Flag s <;> simp

theorem branchTx_tn (s : State) : (branchTx s).tn = s.tn ∨ (branchTx s).tn = s.tn + 1 := by
  rw [branchTx_eq]
  split
  · exact .inl rfl
  · exact .inr rfl

theorem muteTx_tn (s : State) : (muteTx s).tn = s.tn ∨ (muteTx s).tn = s.tn + 1 := by
  rw [muteTx_eq]
  split
  · exact .inl rfl
  · exact .inr rfl

@[simp] theorem pollBody_tn (s : State) : (pollBody s).tn = s.tn := by unfold pollBody; split <;> rfl

@[simp] theorem requestCancel_tn (s : State) : (requestCancel s).tn = s.tn := by rw [requestCancel_eq]

/-- What an instruction does to the transaction number: it stays, advances by one, or goes back to 0. -/
def TnWritten (i : Instr) (s t : State) : Prop :=
  t.tn = s.tn
    ∨ (t.tn = s.tn + 1 ∧ (i = .discUniqueBranch ∨ i = .discMute ∨ i = .discUnMute ∨ (i = .rdmenc ∧ a0Flag s = true)))
    ∨ (t.tn = 0 ∧ i = .attach)

theorem request_tnWritten {i : Instr} {s : State} (hk : opClass i = none) : TnWritten i s (accepted i s) := by
  rw [TnWritten]
  rcases accepted_request_cases s hk with e | ⟨hi, -, e⟩ | ⟨hi, -, e⟩ | ⟨hi, -, e⟩ <;> rw [e]
  · exact .inl rfl
  · exact (branchTx_tn s).imp_right fun e => .inl ⟨e, .inl hi⟩
  · exact (muteTx_tn s).imp_right fun e => .inl ⟨e, .inr (.inl hi)⟩
  · exact .inr (.inl ⟨rfl, .inr (.inr (.inl hi))⟩)

theorem accepted_tnWritten (i : Instr) (s : State) : TnWritten i s (accepted i s) := by
  cases i with
  | rdmenc => exact (rdmEncode_tn s).imp_right fun ⟨e, ha⟩ => .inl ⟨e, .inr (.inr (.inr ⟨rfl, ha⟩))⟩
  | attach => exact .inr (.inr ⟨rfl, rfl⟩)
  | discUniqueBranch | discMute | discUnMute => exact request_tnWritten rfl
  | poll => exact .inl (pollBody_tn s)
  | disccancel => exact .inl (requestCancel_tn s)
  | nop | busNop | hret | detach | discstart => exact .inl rfl
  | _ => exact .inl (by simp [accepted])

/-- Settles O57: what runs writes the number as listed, and what is held or dropped does not. -/
theorem transactionNumberWriters : Obligations.TransactionNumberWriters := by
  intro i s t h
  change TnWritten i s t
  rcases exec_next h with ⟨-, -, -, rfl⟩ | ⟨-, rfl⟩ | rfl | rfl | ⟨-, -, rfl⟩
  · exact accepted_tnWritten i (dropOffer s)
  · exact accepted_tnWritten i s
  · exact .inl rfl
  · exact .inl rfl
  · exact .inl (requestCancel_tn s)

/-! ### Without a handle -/

/-- ATTACH is alone in its row of R300. -/
theorem opClass_eq_attach {i : Instr} (h : opClass i = some .attach) : i = .attach := by
  cases i with
  | attach => rfl
  | _ => cases h

/-- The column "no handle" of R300: every row but ATTACH's is refused. -/
theorem acceptance_detached {k : OpClass} (h : k ≠ .attach) : acceptance k .detached = .refused := by
  cases k with
  | attach => exact absurd rfl h
  | _ => rfl

/-- Settles O32: what the HOST can offer is in a row of R300, and without a handle every row but ATTACH's is refused. -/
theorem detachedRefuses : Obligations.DetachedRefuses := by
  intro s h i hdec hne hatt
  obtain ⟨k, hk⟩ := opClass_of_host hdec
  have hka : k ≠ .attach := by
    rintro rfl
    exact hne (opClass_eq_attach hk)
  have hcol := portColumn_detached hatt
  rw [exec_eq_accepting s hk, if_neg (by simp [hcol]), accepting_refused (by rw [hcol, acceptance_detached hka])]
  rfl

end Sys2Proof.Machine
end

section
/-! SUPPORT. What a step of the discovery engine touches (R26, R55, R242, R252), and its state `DS_POP` and last request (R235, R251). -/

namespace Sys2Proof.Machine

/-- From `s` to `t` only the transaction number, the discovery engine, the environment and `FIRST_RX` may change. -/
def DiscoveryOnly (s t : State) : Prop :=
  t = { s with tn := t.tn, de := t.de, env := t.env, res := { s.res with firstRx := t.res.firstRx } }

theorem DiscoveryOnly.refl (s : State) : DiscoveryOnly s s := rfl

theorem branchTx_discoveryOnly (s : State) : DiscoveryOnly s (branchTx s) := by
  rw [branchTx_eq]
  split <;> rfl

theorem muteTx_discoveryOnly (s : State) : DiscoveryOnly s (muteTx s) := by
  rw [muteTx_eq]
  split <;> rfl

theorem unmuteTx_discoveryOnly (s : State) : DiscoveryOnly s (unmuteTx s) := by
  rw [unmuteTx_eq]
  rfl

/-- The three requests are steps of the discovery engine alone. -/
theorem request_discoveryOnly {i : Instr} {s t : State} (hi : opClass i = none) (h : exec i s = .next t) :
    DiscoveryOnly s t := by
  rw [exec_eq_request s hi] at h
  cases h
  rcases accepted_request_cases s hi with e | ⟨-, -, e⟩ | ⟨-, -, e⟩ | ⟨-, -, e⟩ <;> rw [e]
  · exact .refl s
  · exact branchTx_discoveryOnly s
  · exact muteTx_discoveryOnly s
  · exact unmuteTx_discoveryOnly s

theorem stepWait_discoveryOnly {s t : State} (h : stepWait s = .next t) : DiscoveryOnly s t := by
  unfold stepWait at h
  split at h
  · cases h
    rfl
  · split at h
    · rw [deliverEvent_frame h]
      rfl
    · cases h
      exact .refl s

theorem stepBranchRx_discoveryOnly {s t : State} (h : stepBranchRx s = .next t) : DiscoveryOnly s t := by
  obtain ⟨_, _, -, hc | ⟨-, rfl⟩⟩ := stepBranchRx_next h
  · rw [collision_frame hc]
    rfl
  · rfl

theorem stepMuteRx_discoveryOnly (s : State) : DiscoveryOnly s (stepMuteRx s) := by
  unfold stepMuteRx bulkRead
  cases readData 0x83 s.cfg.lenRdrdm s <;> rfl

theorem discTurn_discoveryOnly {s t : State} (h : discTurn s = .next t) : DiscoveryOnly s t := by
  cases hd : s.de.ds <;> simp only [discTurn, hd] at h
  case branchTx | muteTx | unmuteTx => exact request_discoveryOnly rfl h
  case branchWait | muteWait => exact stepWait_discoveryOnly h
  case branchRx => exact stepBranchRx_discoveryOnly h
  case idle => cases h; exact .refl s
  case pop => cases h; rw [stepPop_frame]; rfl
  case muteRx => cases h; exact stepMuteRx_discoveryOnly s

/-- With the dispatcher idle, a turn of the sequencers is the discovery engine's (R301). -/
theorem step_seq_idle {s : State} {rest : List Act} (hw : s.cfg.wf = true) (hi : s.irqd.iq = .idle) (hs : NextAct .seq rest s) :
    step s = discTurn (withScript rest s) := by
  rw [step_act hw hs]
  simp only [applyAct, seqTurn, withScript_irqd, hi]

/-- Settles O59, by the states of the discovery engine. -/
theorem discoveryTouchesNoHostRegister : Obligations.DiscoveryTouchesNoHostRegister := by
  intro s t rest hi hs h
  rw [step_seq_idle (step_next h).1 hi hs] at h
  have hframe : DiscoveryOnly (withScript rest s) t := discTurn_discoveryOnly h
  rw [hframe]
  exact ⟨rfl, rfl, rfl, rfl, rfl, rfl⟩

/-- Settles O40: the broadcast is sent through `DBUF`, and the pass ends. -/
theorem unmuteRequestEndsPass : Obligations.UnmuteRequestEndsPass := by
  intro s hb hd win
  obtain ⟨-, -, hdbuf, -⟩ := hb
  refine ⟨_, Memory.writeBytes_stores hdbuf s.cfg.dbufCap win, ?_⟩
  rw [exec_eq_request s rfl, accepted, if_pos hd, unmuteTx_eq]

/-- Settles O41, by the cases of `DS_POP`. -/
theorem popTakesLastRange : Obligations.PopTakesLastRange := by
  intro s rest hw hi hd hs s₀
  have hstep : step s = .next (stepPop s₀) := by
    rw [step_seq_idle hw hi hs]
    simp only [discTurn, withScript_de, hd]
    rfl
  rw [hstep]
  refine ⟨fun hc => ?_, fun hc hz hu => ?_, fun hc hz hu => ?_, fun r hc hpos hr => ?_⟩
  · rw [stepPop_cancel (s := s₀) hc]; rfl
  · rw [stepPop_unmute (s := s₀) hc hz hu]; rfl
  · rw [stepPop_finish (s := s₀) hc hz hu]; rfl
  · have htop : s₀.de.stk.getD (s₀.de.sp - 1) ⟨0, 0⟩ = r := by
      simp only [s₀, List.getD_eq_getElem?_getD, hr, Option.getD_some]
    rw [stepPop_take (s := s₀) hc hpos htop]

end Sys2Proof.Machine
end

section
/-! SUPPORT. RDMENC (R24, R201, R204). -/

namespace Sys2Proof.Machine

/-- An ordinary operation that is accepted runs on the state without its offer. -/
theorem exec_ordinary {i : Instr} {s : State} (hk : opClass i = some .ordinary) (h : AcceptsOrdinary s) :
    exec i s = .next (accepted i (dropOffer s)) := by
  have hne : i ≠ .detach := by
    rintro rfl
    cases hk
  rw [exec_eq_accepting s hk, if_neg (fun e => hne e.1), accepting_ordinary h]

/-- What RDMENC writes once the transaction number is chosen (R201). -/
theorem encodeToRbuf_eq {p : Nat} {s : State} {frame : List Byte}
    (h : encodeFrame (fieldsMessage s.f) (obufBytes s p) = frame) : encodeToRbuf p s =
    { s with
      f := { s.f with
        ml := BitVec.ofNat 8 (24 + p), pdl := BitVec.ofNat 8 p, cksum := BitVec.ofNat 16 (be (slice frame (24 + p) 2)) }
      res := { s.res with
        status := .ok, errInfo := 0, rlen := rlenOf frame.length, rbuf := s.res.rbuf.writeBytes 0 (frame.take s.cfg.bufCap) } } := by
  subst h
  simp only [encodeToRbuf, complete, deliver]

/-- Settles O15: the two cases of RDMENC, the frame in `RBUF` as far as that goes. -/
theorem rdmencOutcomes : Obligations.RdmencOutcomes := by
  intro s hb ha
  obtain ⟨-, ⟨hrbuf, -⟩, -⟩ := hb
  rw [exec_ordinary rfl ha]
  refine ⟨fun hlong => ?_, ?_⟩
  · rcases rdmEncode_cases (dropOffer s) with ⟨-, e⟩ | ⟨h230, hcap, -⟩
    · rw [accepted, e]; rfl
    · exact absurd hlong (not_or.mpr ⟨h230.not_gt, hcap.not_gt⟩)
  · intro h230 hcap p auto tn frame
    refine ⟨_, Memory.writeBytes_stores hrbuf s.cfg.bufCap frame, ?_⟩
    rcases rdmEncode_cases (dropOffer s) with ⟨hlong, -⟩ | ⟨-, -, e⟩
    · exact absurd hlong (not_or.mpr ⟨h230.not_gt, hcap.not_gt⟩)
    · have hlen : frame.length = 26 + p := by rw [encodeFrame_length, obufBytes_length]
      have hframe : encodeFrame (fieldsMessage (takeAutoTn (dropOffer s)).f) (obufBytes (takeAutoTn (dropOffer s)) p) = frame := by
        rw [takeAutoTn_eq]; rfl
      rw [accepted, e, dropOffer_port, encodeToRbuf_eq hframe, hlen, rlenOf_of_lt (by omega), takeAutoTn_eq]
      rfl

end Sys2Proof.Machine
end

section
/-! SUPPORT. Reset (R58, R320): the state it leaves is sound, whatever the configuration. -/

namespace Sys2Proof.Machine

/-- Settles O35: a reset is an act that leaves the configuration and the environment. -/
theorem externalResetEffect : Obligations.ExternalResetEffect := by
  intro s rest hw hs
  refine ⟨_, step_act hw hs, rfl, ?_⟩
  simp [externalReset, State.resetWith]

/-- With a well-formed configuration and a sound record, reset leaves a sound state. -/
theorem resetWith_sound {c : Cfg} {e : Env} (hw : c.wf = true) (hbus : BusSound (State.resetWith c e)) :
    Sound (State.resetWith c e) where
  config := hw
  modes := .of_quiet rfl rfl rfl
  buffers := resetWith_buffersSound c e
  dispatch := .cleared c (.inl rfl) _ _ _
  search := resetWith_searchSound c e
  results := .of_cleared rfl rfl rfl rfl rfl
  bus := hbus

/-- Settles O47: the reference configuration is well-formed, and nothing is on record. -/
theorem resetIsSound : Obligations.ResetIsSound := by
  refine ⟨resetWith_sound (by decide) (by simp [BusSound, State.resetWith]), ?_⟩
  simp [State.reset, State.resetWith]

end Sys2Proof.Machine
end

section
/-! SUPPORT. What the SSPE sends (R68, R90, R96, R97): each transaction it makes is one that `txShape` allows. -/

namespace Sys2Proof.Machine

/-! ### The shapes of transactions -/

/-- The command byte of a register read is the address (R92, R95). -/
theorem decodeBus_readCommand (a : BitVec 6) : decodeBus (a.zeroExtend 8) = .ok (.busRdreg a) := by
  revert a; decide

/-- The command byte of a register write is the address with bit 6 set (R92, R95). -/
theorem decodeBus_writeCommand (a : BitVec 6) : decodeBus (0x40 ||| a.zeroExtend 8) = .ok (.busWrreg a) := by
  revert a; decide

theorem txShape_readCommand (c : Cfg) (a : BitVec 6) (rest : List Byte) :
    txShape c (a.zeroExtend 8 :: rest) = readShape c (a.zeroExtend 8) rest := by
  rw [txShape, decodeBus_readCommand]

theorem txShape_writeCommand (c : Cfg) (a : BitVec 6) (rest : List Byte) :
    txShape c ((0x40 ||| a.zeroExtend 8) :: rest) = writeShape c (a.zeroExtend 8) rest := by
  rw [txShape, decodeBus_writeCommand]

/-- The address of a row of the table has six bits (R9, R91). -/
theorem lookup_address_sixBits {c : Cfg} (hw : c.wf = true) {a : Byte} {row : RegisterInfo} (hl : lookup c a = some row) :
    ∃ b : BitVec 6, b.zeroExtend 8 = a := by
  obtain ⟨haddr, -⟩ := cfg_wf_row hw hl
  exact ⟨a.zeroExtend 6, by bv_omega⟩

/-- A read that the table allows, of the table's length, may be sent (R63, R97). -/
theorem txShape_read {c : Cfg} (hw : c.wf = true) {a : Byte} {row : RegisterInfo} (hl : lookup c a = some row)
    (hr : row.readable = true) : txShape c (a :: padding row.length) = true := by
  obtain ⟨b, rfl⟩ := lookup_address_sixBits hw hl
  rw [txShape_readCommand, readShape, hl]
  simp [hr]

/-- A write that the table allows, of the table's length, may be sent (R64, R97). -/
theorem txShape_write {c : Cfg} (hw : c.wf = true) {a : Byte} {row : RegisterInfo} (hl : lookup c a = some row)
    (hwr : row.writable = true) {v : List Byte} (hlen : v.length = row.length) : txShape c ((0x40 ||| a) :: v) = true := by
  obtain ⟨b, rfl⟩ := lookup_address_sixBits hw hl
  rw [txShape_writeCommand, writeShape, hl]
  simp [hwr, hlen]

/-- A request of the DE that fits the RDM write window may be sent: its window has that length (R239). -/
theorem txShape_requestWindow {s : State} {pd : List Byte} (hfit : 26 + pd.length ≤ s.cfg.lenWrrdm) (dest : Uid) (pid : Half) :
    txShape s.cfg (0x92 :: requestWindow s dest pid pd) = true := by
  have hlen : (requestWindow s dest pid pd).length = s.cfg.lenWrrdm :=
    inWindow_length (by rwa [encodeFrame_length])
  simp [txShape, decodeBus, hlen]

/-- The DE reads the whole RDM window (R243, R250). -/
theorem txShape_rdmWindow (c : Cfg) : txShape c (0x83 :: padding c.lenRdrdm) = true := by simp [txShape, decodeBus]

/-! ### The record of transactions -/

/-- Nothing on record is touched. -/
theorem BusSound.of_same_env {s t : State} (h : BusSound s) (hcfg : t.cfg = s.cfg) (henv : t.env = s.env) : BusSound t := by
  rwa [BusSound, hcfg, henv]

/-- One transaction of an allowed shape is put on record. -/
theorem BusSound.of_xfer {s t : State} {tx : List Byte} (h : BusSound s) (htx : txShape s.cfg tx = true)
    (hcfg : t.cfg = s.cfg) (henv : t.env = envAfter tx s) : BusSound t := by
  rw [BusSound, hcfg, henv]
  intro x hx
  rcases List.mem_cons.mp hx with rfl | hx
  · exact ⟨rfl, htx⟩
  · exact h x hx

/-! ### The bodies of the instructions -/

section
variable {s : State}

/-- A register read checks the row, its direction and the length before it sends anything (R131, R133). -/
theorem readRegister_busSound (h : BusSound s) (hw : s.cfg.wf = true) (a : Byte) (n : Nat) : BusSound (readRegister a n s) := by
  rcases readRegister_cases a n s with ⟨-, e⟩ | ⟨_, hl, hr, ⟨-, e⟩ | ⟨-, -, e⟩ | ⟨-, -, e⟩⟩ <;> rw [e]
  · exact h
  · exact h
  · exact h.of_xfer (txShape_read hw hl hr) rfl rfl
  · exact h.of_xfer (txShape_read hw hl hr) rfl rfl

/-- A register write checks the row, its direction and the length before it sends anything (R132, R133). -/
theorem writeRegister_busSound (h : BusSound s) (hw : s.cfg.wf = true) (a : Byte) (n : Nat) : BusSound (writeRegister a n s) := by
  rcases writeRegister_cases a n s with ⟨-, e⟩ | ⟨row, hl, hwr, ⟨-, e⟩ | ⟨-, e⟩⟩ <;> rw [e]
  · exact h
  · exact h
  · exact h.of_xfer (txShape_write hw hl hwr (obufBytes_length s row.length)) rfl rfl

theorem readWindow_busSound (h : BusSound s) {cmd : Byte} {n : Nat} (htx : txShape s.cfg (cmd :: padding n) = true) :
    BusSound (readWindow cmd n s) := by
  rcases readWindow_cases cmd n s with ⟨-, e⟩ | ⟨-, e⟩ <;> rw [e] <;> exact h.of_xfer htx rfl rfl

theorem writeWindow_busSound (h : BusSound s) {cmd : Byte} {n : Nat} (htx : txShape s.cfg (cmd :: obufBytes s n) = true) :
    BusSound (writeWindow cmd n s) := by
  rcases writeWindow_cases cmd n s with ⟨-, e⟩ | ⟨-, e⟩ <;> rw [e]
  · exact h
  · exact h.of_xfer htx rfl rfl

theorem checkedWrite_busSound (h : BusSound s) {cmd : Byte} {n : Nat} (htx : txShape s.cfg (cmd :: obufBytes s n) = true) :
    BusSound (checkedWrite cmd n s) := by
  rcases checkedWrite_cases cmd n s with ⟨-, e⟩ | ⟨-, -, e⟩ <;> rw [e]
  · exact h
  · exact h.of_xfer htx rfl rfl

/-- The requests of the DE have 26 bytes, or 38 with a range in them, and fit their window (R9, R236, R237). -/
theorem request_busSound (h : BusSound s) (hw : s.cfg.wf = true) {i : Instr} (hk : opClass i = none) :
    BusSound (accepted i s) := by
  obtain ⟨hwindow, -⟩ := cfg_wf_discovery hw
  rcases accepted_request_cases s hk with e | ⟨-, -, e⟩ | ⟨-, -, e⟩ | ⟨-, -, e⟩ <;> rw [e]
  · exact h
  · rw [branchTx_eq]
    split
    · exact h
    · exact h.of_xfer (txShape_requestWindow (by simpa using hwindow) _ _) rfl rfl
  · rw [muteTx_eq]
    split
    · exact h
    · exact h.of_xfer (txShape_requestWindow (by rw [List.length_nil]; omega) _ _) rfl rfl
  · rw [unmuteTx_eq]
    exact h.of_xfer (txShape_requestWindow (by rw [List.length_nil]; omega) _ _) rfl rfl

/-- Whatever an accepted instruction sends has an allowed shape; the fixed command bytes carry the window they stand for (R94). -/
theorem accepted_busSound (h : BusSound s) (hw : s.cfg.wf = true) (i : Instr) : BusSound (accepted i s) := by
  cases i with
  | rdreg | busRdreg => exact readRegister_busSound h hw _ _
  | wrreg | busWrreg => exact writeRegister_busSound h hw _ _
  | nop | busNop => exact h.of_xfer (tx := [0xFF]) rfl rfl rfl
  | rddmx | busRddmx | rdasc | busRdasc | rdrdm | busRdrdm => exact readWindow_busSound h (by simp [txShape, decodeBus])
  | wrdmx | wrrdm | fwblk1 | fwblk2 => exact checkedWrite_busSound h (by simp [txShape, decodeBus])
  | busWrdmx | busWrrdm | busFwblk1 | busFwblk2 => exact writeWindow_busSound h (by simp [txShape, decodeBus])
  | rdmenc => exact h.of_same_env (accepted_cfg _ s) (rdmEncode_env s)
  | rdmdec => exact h.of_same_env (accepted_cfg _ s) (rdmDecode_env s)
  | poll => exact h.of_same_env (accepted_cfg _ s) (pollBody_env s)
  | disccancel => exact h.of_same_env (accepted_cfg _ s) (requestCancel_env s)
  | hret | attach | detach | discstart => exact h
  | discUniqueBranch | discMute | discUnMute => exact request_busSound h hw rfl

/-! ### The steps of the sequencers -/

/-- The IRQD reads a flag register as an RDREG of the table's length (R140, R173, R174). -/
theorem readFlagRegister_busSound (h : BusSound s) (hw : s.cfg.wf = true) {a : Byte} {row : RegisterInfo}
    (hl : lookup s.cfg a = some row) (hr : row.readable = true) : BusSound (readFlagRegister a s).2 := by
  rcases readFlagRegister_cases hl hr with ⟨-, e⟩ | ⟨-, e⟩ <;> rw [e] <;> exact h.of_xfer (txShape_read hw hl hr) rfl rfl

/-- The IRQD writes a flag register as a WRREG of the table's length (R140, R183, R184). -/
theorem writeBack_busSound (h : BusSound s) (hw : s.cfg.wf = true) {a : Byte} {row : RegisterInfo}
    (hl : lookup s.cfg a = some row) (hwr : row.writable = true) (v : Nat) : BusSound (writeBack a v s) := by
  rcases writeBack_cases (v := v) hl hwr with ⟨-, e⟩ | ⟨-, e⟩ <;> rw [e]
  · exact h
  · exact h.of_xfer (txShape_write hw hl hwr (beBytes_length _ v)) rfl rfl

theorem stepRdflags_busSound (h : BusSound s) (hw : s.cfg.wf = true) : BusSound (stepRdflags s) := by
  obtain ⟨-, ⟨row, hl, hr, -⟩, -⟩ := cfg_wf_flagRegisters hw
  have hread := readFlagRegister_busSound h hw hl hr
  unfold stepRdflags
  split
  next e => rw [e] at hread; exact hread
  next e => rw [e] at hread; exact hread

theorem stepRdext_busSound (h : BusSound s) (hw : s.cfg.wf = true) : BusSound (stepRdext s) := by
  obtain ⟨-, -, row, hl, hr, -⟩ := cfg_wf_flagRegisters hw
  have hread := readFlagRegister_busSound h hw hl hr
  unfold stepRdext
  split
  next e => rw [e] at hread; exact hread
  next e => rw [e] at hread; exact hread

theorem stepWbext_busSound (h : BusSound s) (hw : s.cfg.wf = true) : BusSound (stepWbext s) := by
  obtain ⟨-, -, row, hl, -, hwr⟩ := cfg_wf_flagRegisters hw
  exact writeBack_busSound h hw hl hwr _

theorem stepWbflags_busSound (h : BusSound s) (hw : s.cfg.wf = true) : BusSound (stepWbflags s) := by
  obtain ⟨-, ⟨row, hl, -, hwr⟩, -⟩ := cfg_wf_flagRegisters hw
  exact writeBack_busSound h hw hl hwr _

end

/-! ### The invariant -/

/-- Settles O54: the bodies of the instructions, the flag registers' reads and write-backs and the DE's reads are all that
puts a transaction on record, and each has an allowed shape. -/
theorem stepKeepsBusSound : Obligations.StepKeepsBusSound := by
  intro s t hs hstep
  refine step_preserves (P := BusSound) (fun _ _ h => h) (fun i s h hw _ => accepted_busSound h hw i) (fun _ h => h)
    (fun s h => h.of_same_env (requestCancel_cfg s) (requestCancel_env s)) ?write (fun _ _ h => h) ?irq ?event
    (fun _ h _ => h) (fun _ _ h => h) ?dispatcher ?pop ?branchRx ?muteRx (fun _ h _ _ _ => h) hs hstep
  case write => intro w s t h _ hw; rw [hostWrite_frame hw]; exact h
  case irq => intro s h; unfold irqAssert; split <;> exact h
  case event => intro e s t h _ he; rw [deliverEvent_frame he]; exact h
  case dispatcher =>
    intro s h hw
    exact ⟨fun _ => stepRdflags_busSound h hw, fun _ => stepRdext_busSound h hw,
      fun _ => h.of_same_env (stepDispatch_cfg s) (stepDispatch_env s), fun _ => stepWbext_busSound h hw,
      fun _ => stepWbflags_busSound h hw⟩
  case pop => intro s h _ _ _; exact h.of_same_env (stepPop_cfg s) (stepPop_env s)
  case branchRx =>
    intro s t h _ _ _ he
    rw [stepBranchRx_frame he]
    exact h.of_xfer (txShape_rdmWindow s.cfg) rfl rfl
  case muteRx => intro s h _ _ _; exact h.of_xfer (txShape_rdmWindow s.cfg) (stepMuteRx_cfg s) (stepMuteRx_env s)

end Sys2Proof.Machine
end

section
/-! SUPPORT. The bulk reads (R65, R153 to R155). -/

namespace Sys2Proof.Machine

section
variable {i : Instr} {cmd : Byte} {n : Nat} {s : State}

/-- A bulk read that brings a wrong number of bytes fails, and of the results writes `FIRST_RX` besides (R65, R153). -/
theorem exec_readWindow_wrongLength (ha : AcceptsOrdinary s) (hk : opClass i = some .ordinary)
    (hbody : accepted i (dropOffer s) = readWindow cmd n (dropOffer s))
    (hlen : (busReply s (cmd :: padding n)).length ≠ n + 1) :
    exec i s = .next { s with
      port := { s.port with offered := false }
      env := envAfter (cmd :: padding n) s
      res := { s.res with firstRx := firstRxAfter (cmd :: padding n) s, status := .failed .frameLengthError, errInfo := 0 } } := by
  rw [exec_ordinary hk ha, hbody]
  rcases readWindow_cases cmd n (dropOffer s) with ⟨-, e⟩ | ⟨hlen', -⟩
  · rw [e]; rfl
  · exact absurd hlen' hlen

/-- A bulk read that brings the window delivers it (R25, R153). -/
theorem exec_readWindow_delivers (ha : AcceptsOrdinary s) (hk : opClass i = some .ordinary)
    (hbody : accepted i (dropOffer s) = readWindow cmd n (dropOffer s))
    (hlen : (busReply s (cmd :: padding n)).length = n + 1) :
    exec i s = .next { s with
      port := { s.port with offered := false }
      env := envAfter (cmd :: padding n) s
      res := {
        status := .ok, errInfo := 0, rlen := rlenOf n
        rbuf := s.res.rbuf.writeBytes 0 (((busReply s (cmd :: padding n)).drop 1).take s.cfg.bufCap)
        firstRx := firstRxAfter (cmd :: padding n) s } } := by
  rw [exec_ordinary hk ha, hbody]
  rcases readWindow_cases cmd n (dropOffer s) with ⟨hlen', -⟩ | ⟨-, e⟩
  · exact absurd hlen hlen'
  · have hrlen : rlenOf n = rlenOf ((busReply s (cmd :: padding n)).drop 1).length := by simp [hlen]
    rw [e, hrlen]; rfl

end

/-- Settles O12: the three operations are one body with three windows. -/
theorem bulkReadOutcomes : Obligations.BulkReadOutcomes := by
  intro s hb ha p hp tx
  obtain ⟨-, ⟨hrbuf, -⟩, -⟩ := hb
  have hbody : opClass p.1 = some .ordinary ∧ accepted p.1 (dropOffer s) = readWindow p.2.1 p.2.2 (dropOffer s) := by
    simp only [List.mem_cons, List.not_mem_nil, or_false] at hp
    rcases hp with rfl | rfl | rfl <;> exact ⟨rfl, rfl⟩
  obtain ⟨hk, hbody⟩ := hbody
  exact ⟨exec_readWindow_wrongLength ha hk hbody, fun hlen =>
    ⟨_, Memory.writeBytes_stores hrbuf s.cfg.bufCap _, exec_readWindow_delivers ha hk hbody hlen⟩⟩

end Sys2Proof.Machine
end

section
/-! SUPPORT. The column "DISCOVERY" of R300: what becomes of each operation the HOST offers during a pass (R81, R301). -/

namespace Sys2Proof.Machine

/-- Of the operations that R300 lists, a pass holds all but DISCCANCEL and HRET. -/
theorem acceptance_discovery_held {i : Instr} {k : OpClass} (hk : opClass i = some k) (hcancel : i ≠ .disccancel)
    (hhret : i ≠ .hret) : acceptance k .discovery = .held := by
  cases i with
  | disccancel => exact absurd rfl hcancel
  | hret => exact absurd rfl hhret
  | discUniqueBranch | discMute | discUnMute => cases hk
  | _ => cases hk; rfl

section
variable {s : State}

theorem exec_held_of_discovery (hd : InDiscovery s) {i : Instr} {k : OpClass} (hk : opClass i = some k)
    (hcancel : i ≠ .disccancel) (hdetach : i ≠ .detach) (hhret : i ≠ .hret) : exec i s = .next s := by
  rw [exec_eq_accepting s hk, if_neg (fun e => hdetach e.1),
    accepting_held (by rw [portColumn_discovery hd, acceptance_discovery_held hk hcancel hhret])]

theorem exec_hret_of_discovery (hd : InDiscovery s) : exec .hret s = .next (dropOffer s) :=
  accepting_refused (by rw [portColumn_discovery hd]; rfl)

/-- A DETACH stays requested, and asks the pass to unwind (R323). -/
theorem exec_detach_of_discovery (hd : InDiscovery s) : exec .detach s = .next (requestCancel s) :=
  if_pos (portColumn_discovery hd)

theorem exec_disccancel_of_discovery (hd : InDiscovery s) :
    exec .disccancel s = .next (complete (requestCancel (dropOffer s))) :=
  accepting_accept (k := .disccancel) (run := fun t => complete (requestCancel t)) (by rw [portColumn_discovery hd]; rfl)

/-- No operation of R300 makes a transaction or moves the engine during a pass. -/
theorem exec_quiet_of_discovery (hd : InDiscovery s) {i : Instr} {k : OpClass} (hk : opClass i = some k) :
    ∃ t, exec i s = .next t ∧ t.env = s.env ∧ t.de.ds = s.de.ds := by
  by_cases hcancel : i = .disccancel
  · subst hcancel
    exact ⟨_, exec_disccancel_of_discovery hd, by simp, by simp⟩
  by_cases hdetach : i = .detach
  · subst hdetach
    exact ⟨_, exec_detach_of_discovery hd, requestCancel_env s, requestCancel_ds s⟩
  by_cases hhret : i = .hret
  · subst hhret
    exact ⟨_, exec_hret_of_discovery hd, rfl, rfl⟩
  exact ⟨s, exec_held_of_discovery hd hk hcancel hdetach hhret, rfl, rfl⟩

end

/-- Settles O33, by the column "DISCOVERY" of R300. -/
theorem discoveryOwnsTheBus : Obligations.DiscoveryOwnsTheBus := by
  intro s h i hdec hd
  obtain ⟨k, hk⟩ := opClass_of_host hdec
  refine ⟨exec_held_of_discovery hd hk, ?_, exec_quiet_of_discovery hd hk⟩
  rintro rfl
  exact exec_hret_of_discovery hd

end Sys2Proof.Machine
end

section
/-! SUPPORT. The decoder and the encoder (R92, R95, R96, R100, R122): each is the inverse of the other. -/

namespace Sys2Proof

/-- The command byte of a register access is the address, with bit 6 as the direction (R92). -/
theorem encode_busRdreg (a : BitVec 6) : encode (.busRdreg a) = .bus (a.zeroExtend 8) := by
  revert a; decide

theorem encode_busWrreg (a : BitVec 6) : encode (.busWrreg a) = .bus (0x40 ||| a.zeroExtend 8) := by
  revert a; decide

/-- Settles O1: the register commands by their address, every other instruction by its one word. -/
theorem decodeOfEncode : Obligations.DecodeOfEncode := by
  intro i
  cases i with
  | busRdreg a => rw [encode_busRdreg]; exact Machine.decodeBus_readCommand a
  | busWrreg a => rw [encode_busWrreg]; exact Machine.decodeBus_writeCommand a
  | _ => rfl

/-- One row of a decoding table: the row's word is the encoding of its instruction, or the decision falls to the rows below. -/
theorem encode_of_row {n : Nat} {mk : BitVec n → CodeWord} {w v : BitVec n} {i j : Instr} {below : Except DecodeError Instr}
    (hrow : encode j = mk v) (hbelow : below = .ok i → encode i = mk w) :
    (if w = v then .ok j else below) = .ok i → encode i = mk w := by
  intro h
  split at h
  · cases h; subst v; exact hrow
  · exact hbelow h

/-- A byte whose bit 7 is clear is the command byte of its own address in its own direction (R95). -/
theorem readCommand_of_bits {c : BitVec 8} (h7 : ¬ c.getLsbD 7 = true) (h6 : ¬ c.getLsbD 6 = true) :
    (c.extractLsb' 0 6).zeroExtend 8 = c := by
  revert c; decide

theorem writeCommand_of_bits {c : BitVec 8} (h7 : ¬ c.getLsbD 7 = true) (h6 : c.getLsbD 6 = true) :
    0x40 ||| (c.extractLsb' 0 6).zeroExtend 8 = c := by
  revert c; decide

theorem encode_of_decodeBus {c : BitVec 8} {i : Instr} (h : decodeBus c = .ok i) : encode i = .bus c := by
  unfold decodeBus at h
  split at h
  next h7 =>
    revert h
    iterate 8 refine encode_of_row rfl ?_
    exact nofun
  next h7 =>
    split at h
    next h6 => cases h; rw [encode_busWrreg, writeCommand_of_bits h7 h6]
    next h6 => cases h; rw [encode_busRdreg, readCommand_of_bits h7 h6]

theorem encode_of_decodeHost {h : BitVec 8} {i : Instr} : decodeHost h = .ok i → encode i = .host h := by
  unfold decodeHost
  iterate 18 refine encode_of_row rfl ?_
  exact nofun

theorem encode_of_decodeRdm {r : BitVec 24} {i : Instr} : decodeRdm r = .ok i → encode i = .rdm r := by
  unfold decodeRdm
  iterate 3 refine encode_of_row rfl ?_
  exact nofun

/-- Settles O2: row by row in each of the three spaces of R122. -/
theorem encodeOfDecode : Obligations.EncodeOfDecode := by
  intro w i h
  cases w with
  | bus c => exact encode_of_decodeBus h
  | host c => exact encode_of_decodeHost h
  | rdm r => exact encode_of_decodeRdm h

/-- A row of a decoding table that answers an error: its word was not met, and the rows below answer it. -/
theorem row_eq_error_iff {n : Nat} {w v : BitVec n} {j : Instr} {below : Except DecodeError Instr} {e : DecodeError} :
    (if w = v then .ok j else below) = .error e ↔ w ≠ v ∧ below = .error e := by
  split <;> simp [*]

/-- A command byte is unassigned when its bit 7 is set and it is none of the eight commands that R95 matches exactly. -/
theorem decodeBus_unassigned_iff (c : BitVec 8) : decodeBus c = .error (.unassignedCommandByte c) ↔
    c.getLsbD 7 = true ∧ c ∉ [(0x81 : BitVec 8), 0x82, 0x83, 0x8E, 0x8F, 0x91, 0x92, 0xFF] := by
  unfold decodeBus
  split
  next h7 => simp [row_eq_error_iff, h7]
  next h7 => split <;> exact iff_of_false nofun fun h => h7 h.1

/-- Bit 7 of a byte is its sign: the byte is 0x80 or more. -/
theorem getLsbD_seven_iff (c : BitVec 8) : c.getLsbD 7 = true ↔ 0x80 ≤ c := by
  revert c; decide

/-- Settles O3: the ranges of R96 are what is left of 0x80 to 0xFF without the eight commands. -/
theorem unassignedCommandBytes : Obligations.UnassignedCommandBytes := by
  refine ⟨fun c => ?_, rfl⟩
  rw [decodeBus_unassigned_iff, getLsbD_seven_iff]
  simp only [List.mem_cons, List.not_mem_nil, or_false]
  bv_omega

/-- Settles O4: the words are the encodings of the instructions; the two others are beyond the tables. -/
theorem sampleWordsDecode : Obligations.SampleWordsDecode :=
  ⟨decodeOfEncode (.busRdreg 3), decodeOfEncode (.busWrreg 3), decodeOfEncode (.busWrreg 0x34), decodeOfEncode .busRdrdm,
    decodeOfEncode .busWrrdm, decodeOfEncode .busNop, decodeOfEncode .rdmdec, decodeOfEncode .disccancel,
    decodeOfEncode .discMute, rfl, rfl⟩

end Sys2Proof
end

section
/-! SUPPORT. The frame codec (R98, R104, R200, R205, R206, R217): the checksum as a sum, and an encoded frame as its parts in order. -/

namespace Sys2Proof.Machine

/-! ### The checksum (R104) -/

/-- The running checksum from any start. -/
theorem foldl_checksum (bs : List Byte) (acc : Half) :
    (bs.foldl (fun acc b => acc + b.zeroExtend 16) acc).toNat = (acc.toNat + (bs.map (·.toNat)).sum) % 65536 := by
  induction bs generalizing acc with
  | nil => exact (Nat.mod_eq_of_lt acc.isLt).symm
  | cons b bs ih =>
    have hb : (b.zeroExtend 16).toNat = b.toNat := by bv_omega
    rw [List.foldl_cons, ih, BitVec.toNat_add, hb, List.map_cons, List.sum_cons, Nat.mod_add_mod, Nat.add_assoc]

theorem checksum_toNat (bs : List Byte) : (checksum bs).toNat = (bs.map (·.toNat)).sum % 65536 := by
  rw [checksum, foldl_checksum, BitVec.ofNat_eq_ofNat, BitVec.toNat_zero, Nat.zero_add]

theorem sum_toNat_le (bs : List Byte) : (bs.map (·.toNat)).sum ≤ bs.length * 255 := by
  have hle := List.sum_le_card_nsmul (bs.map (·.toNat)) 255 fun x hx => by
    obtain ⟨b, -, rfl⟩ := List.mem_map.mp hx
    exact Nat.le_of_lt_succ b.isLt
  simpa using hle

/-- Settles O19: the sum of 254 bytes is below 65536. -/
theorem checksumIsByteSum : Obligations.ChecksumIsByteSum := by
  refine fun bs => ⟨checksum_toNat bs, fun hlen => ?_⟩
  have hsum := sum_toNat_le bs
  rw [checksum_toNat, Nat.mod_eq_of_lt (by omega)]

/-! ### Slices -/

/-- A byte of a slice is the byte at its offset (R11). -/
theorem byteAt_of_slice {f bs : List Byte} {i n : Nat} (h : slice f i n = bs) (j : Nat) (hj : j < n) :
    byteAt f (i + j) = byteAt bs j := by
  subst h
  simp [byteAt, slice, List.getD, hj]

/-- In a concatenation of parts, each part stands where the parts before it end. -/
theorem slice_flatten {parts : List (List Byte)} {k : Nat} {part : List Byte} (h : parts[k]? = some part) :
    slice parts.flatten ((parts.take k).map List.length).sum part.length = part := by
  induction parts generalizing k with
  | nil => simp at h
  | cons p parts ih =>
    cases k with
    | zero =>
      obtain rfl : p = part := by simpa using h
      simp [slice]
    | succ k =>
      have := ih (k := k) (by simpa using h)
      simpa [slice] using this

/-! ### The parts of a frame (R98) -/

/-- The parts of an encoded frame in the order of R98, the neighbouring single bytes together. -/
def frameParts (m : Message) (pd : List Byte) : List (List Byte) :=
  [[startCode, subStartCode, BitVec.ofNat 8 (24 + pd.length)], beBytes 6 m.dest.toNat, beBytes 6 m.src.toNat,
    [m.tn, m.prt, m.mc], beBytes 2 m.sub.toNat, [m.cc], beBytes 2 m.pid.toNat, [BitVec.ofNat 8 pd.length], pd,
    beBytes 2 (checksum (frameBody m pd)).toNat]

theorem encodeFrame_eq_flatten (m : Message) (pd : List Byte) : encodeFrame m pd = (frameParts m pd).flatten := by
  simp [encodeFrame, frameBody, frameParts]

section
variable (m : Message) (pd : List Byte)

/-- A part of an encoded frame, by the offset that the lengths of the parts before it add up to. -/
theorem slice_encodeFrame (k : Nat) {i n : Nat} {part : List Byte} (hk : (frameParts m pd)[k]? = some part)
    (hi : (((frameParts m pd).take k).map List.length).sum = i) (hn : part.length = n) :
    slice (encodeFrame m pd) i n = part := by
  rw [← hi, ← hn, encodeFrame_eq_flatten, slice_flatten hk]

theorem slice_encodeFrame_start :
    slice (encodeFrame m pd) 0 3 = [startCode, subStartCode, BitVec.ofNat 8 (24 + pd.length)] :=
  slice_encodeFrame m pd 0 rfl rfl rfl

theorem slice_encodeFrame_dest : slice (encodeFrame m pd) 3 6 = beBytes 6 m.dest.toNat :=
  slice_encodeFrame m pd 1 rfl rfl rfl

theorem slice_encodeFrame_src : slice (encodeFrame m pd) 9 6 = beBytes 6 m.src.toNat :=
  slice_encodeFrame m pd 2 rfl rfl rfl

theorem slice_encodeFrame_tn : slice (encodeFrame m pd) 15 3 = [m.tn, m.prt, m.mc] :=
  slice_encodeFrame m pd 3 rfl rfl rfl

theorem slice_encodeFrame_sub : slice (encodeFrame m pd) 18 2 = beBytes 2 m.sub.toNat :=
  slice_encodeFrame m pd 4 rfl rfl rfl

theorem slice_encodeFrame_cc : slice (encodeFrame m pd) 20 1 = [m.cc] :=
  slice_encodeFrame m pd 5 rfl rfl rfl

theorem slice_encodeFrame_pid : slice (encodeFrame m pd) 21 2 = beBytes 2 m.pid.toNat :=
  slice_encodeFrame m pd 6 rfl rfl rfl

theorem slice_encodeFrame_pdl : slice (encodeFrame m pd) 23 1 = [BitVec.ofNat 8 pd.length] :=
  slice_encodeFrame m pd 7 rfl rfl rfl

theorem slice_encodeFrame_data : slice (encodeFrame m pd) 24 pd.length = pd :=
  slice_encodeFrame m pd 8 rfl rfl rfl

/-- What the checksum covers is everything before it (R104). -/
theorem take_encodeFrame : (encodeFrame m pd).take (24 + pd.length) = frameBody m pd :=
  List.take_left' (by simp [frameBody]; omega)

theorem slice_encodeFrame_checksum : slice (encodeFrame m pd) (24 + pd.length) 2 =
    beBytes 2 (checksum ((encodeFrame m pd).take (24 + pd.length))).toNat := by
  rw [take_encodeFrame]
  exact slice_encodeFrame m pd 9 rfl (by simp [frameParts]; omega) rfl

/-! ### What a receiver reads (R205, R206) -/

/-- A value that fits in `n` bytes is read back from them (R11). -/
theorem ofNat_be_beBytes {w : Nat} (n : Nat) (v : BitVec w) (hw : w ≤ 8 * n) : BitVec.ofNat w (be (beBytes n v.toNat)) = v := by
  have hlt : v.toNat < 256 ^ n := calc
    v.toNat < 2 ^ w := v.isLt
    _ ≤ 2 ^ (8 * n) := Nat.pow_le_pow_right (by decide) hw
    _ = 256 ^ n := by rw [Nat.pow_mul]
  rw [be_beBytes, Nat.mod_eq_of_lt hlt, BitVec.ofNat_toNat, BitVec.setWidth_eq]

theorem byteAt_encodeFrame_ml : byteAt (encodeFrame m pd) 2 = BitVec.ofNat 8 (24 + pd.length) :=
  byteAt_of_slice (slice_encodeFrame_start m pd) 2 (by decide)

theorem byteAt_encodeFrame_pdl : byteAt (encodeFrame m pd) 23 = BitVec.ofNat 8 pd.length :=
  byteAt_of_slice (slice_encodeFrame_pdl m pd) 0 (by decide)

theorem messageOf_encodeFrame : messageOf (encodeFrame m pd) = m := by
  have htn : byteAt (encodeFrame m pd) 15 = m.tn := byteAt_of_slice (slice_encodeFrame_tn m pd) 0 (by decide)
  have hprt : byteAt (encodeFrame m pd) 16 = m.prt := byteAt_of_slice (slice_encodeFrame_tn m pd) 1 (by decide)
  have hmc : byteAt (encodeFrame m pd) 17 = m.mc := byteAt_of_slice (slice_encodeFrame_tn m pd) 2 (by decide)
  have hcc : byteAt (encodeFrame m pd) 20 = m.cc := byteAt_of_slice (slice_encodeFrame_cc m pd) 0 (by decide)
  rw [messageOf, slice_encodeFrame_dest, slice_encodeFrame_src, slice_encodeFrame_sub, slice_encodeFrame_pid, htn, hprt, hmc, hcc,
    ofNat_be_beBytes 6 m.dest (by decide), ofNat_be_beBytes 6 m.src (by decide), ofNat_be_beBytes 2 m.sub (by decide),
    ofNat_be_beBytes 2 m.pid (by decide)]

variable {pd}

/-- The length bytes do not wrap: parameter data has at most 230 bytes (R200). -/
theorem toNat_byteAt_encodeFrame_pdl (hpd : pd.length ≤ 230) : (byteAt (encodeFrame m pd) 23).toNat = pd.length := by
  rw [byteAt_encodeFrame_pdl, BitVec.toNat_ofNat, Nat.mod_eq_of_lt (by omega)]

theorem toNat_byteAt_encodeFrame_ml (hpd : pd.length ≤ 230) : (byteAt (encodeFrame m pd) 2).toNat = 24 + pd.length := by
  rw [byteAt_encodeFrame_ml, BitVec.toNat_ofNat, Nat.mod_eq_of_lt (by omega)]

theorem frameData_encodeFrame (hpd : pd.length ≤ 230) : frameData (encodeFrame m pd) = pd := by
  rw [frameData, toNat_byteAt_encodeFrame_pdl m hpd, slice_encodeFrame_data]

theorem frameFields_encodeFrame (hpd : pd.length ≤ 230) : frameFields (encodeFrame m pd) =
    { ml := BitVec.ofNat 8 (24 + pd.length), dest := m.dest, src := m.src, tn := m.tn, portRt := m.prt, mc := m.mc,
      subdev := m.sub, cc := m.cc, pid := m.pid, pdl := BitVec.ofNat 8 pd.length,
      cksum := checksum ((encodeFrame m pd).take (24 + pd.length)) } := by
  rw [frameFields, messageOf_encodeFrame, toNat_byteAt_encodeFrame_pdl m hpd, slice_encodeFrame_checksum,
    ofNat_be_beBytes 2 _ (by decide), byteAt_encodeFrame_ml, byteAt_encodeFrame_pdl]

/-- An encoded frame passes the three checks of R205: start codes, lengths, checksum. -/
theorem frameParse_encodeFrame (hpd : pd.length ≤ 230) : frameParse (encodeFrame m pd) = none := by
  have hlen := encodeFrame_length m pd
  have hsc : byteAt (encodeFrame m pd) 0 = startCode := byteAt_of_slice (slice_encodeFrame_start m pd) 0 (by decide)
  have hssc : byteAt (encodeFrame m pd) 1 = subStartCode := byteAt_of_slice (slice_encodeFrame_start m pd) 1 (by decide)
  have hck : be (slice (encodeFrame m pd) (24 + pd.length) 2) = (checksum ((encodeFrame m pd).take (24 + pd.length))).toNat := by
    rw [slice_encodeFrame_checksum, be_beBytes]
    exact Nat.mod_eq_of_lt (BitVec.isLt _)
  rw [frameParse, toNat_byteAt_encodeFrame_pdl m hpd, toNat_byteAt_encodeFrame_ml m hpd, hck, hsc, hssc, hlen,
    if_neg (by simp; omega), if_neg (by omega), if_neg (not_not.mpr rfl)]

end

/-- Settles O17: the parts of an encoded frame at their offsets, and what a receiver reads from them. -/
theorem frameRoundTrip : Obligations.FrameRoundTrip := fun m pd hpd =>
  ⟨encodeFrame_length m pd, frameParse_encodeFrame m hpd, messageOf_encodeFrame m pd, frameData_encodeFrame m hpd,
    frameFields_encodeFrame m hpd, slice_encodeFrame_start m pd, slice_encodeFrame_dest m pd, slice_encodeFrame_src m pd,
    slice_encodeFrame_tn m pd, slice_encodeFrame_sub m pd, slice_encodeFrame_cc m pd, slice_encodeFrame_pid m pd,
    slice_encodeFrame_pdl m pd, slice_encodeFrame_data m pd, slice_encodeFrame_checksum m pd⟩

end Sys2Proof.Machine
end

section
/-! SUPPORT. The command bytes of R92 as operations of their own (log 11): the register accesses and the eight fixed commands. -/

namespace Sys2Proof.Machine

section
variable {s : State} {a : Byte} {len : Nat} {row : RegisterInfo}

/-! ### What a register access does (R131 to R133), by the row of the table -/

theorem readRegister_denied (h : lookup s.cfg a = none ∨ ∃ row, lookup s.cfg a = some row ∧ row.readable = false) :
    readRegister a len s = raise .accessDenied 0 s := by
  rcases readRegister_cases a len s with ⟨-, e⟩ | ⟨row, hl, hr, -⟩
  · exact e
  · simp [hl, hr] at h

theorem writeRegister_denied (h : lookup s.cfg a = none ∨ ∃ row, lookup s.cfg a = some row ∧ row.writable = false) :
    writeRegister a len s = raise .accessDenied 0 s := by
  rcases writeRegister_cases a len s with ⟨-, e⟩ | ⟨row, hl, hw, -⟩
  · exact e
  · simp [hl, hw] at h

/-- A read of the table's length whose reply has a wrong number of bytes (R67, R131). -/
theorem readRegister_wrongReply (hl : lookup s.cfg a = some row) (hr : row.readable = true)
    (hreply : (busReply s (a :: padding row.length)).length ≠ row.length + 1) :
    readRegister a row.length s = raise .lengthMismatch 0 (busXfer (a :: padding row.length) s) := by
  rcases readRegister_cases a row.length s with ⟨h, -⟩ | ⟨_, hl', -, h⟩
  · simp [hl, hr] at h
  · cases hl.symm.trans hl'
    rcases h with ⟨hne, -⟩ | ⟨-, -, e⟩ | ⟨-, hreply', -⟩
    · exact absurd rfl hne
    · exact e
    · exact absurd hreply' hreply

/-- A read of the table's length that brings the register (R131). -/
theorem readRegister_delivers (hl : lookup s.cfg a = some row) (hr : row.readable = true)
    (hreply : (busReply s (a :: padding row.length)).length = row.length + 1) :
    readRegister a row.length s =
      complete (deliver ((busReply s (a :: padding row.length)).drop 1) (busXfer (a :: padding row.length) s)) := by
  rcases readRegister_cases a row.length s with ⟨h, -⟩ | ⟨_, hl', -, h⟩
  · simp [hl, hr] at h
  · cases hl.symm.trans hl'
    rcases h with ⟨hne, -⟩ | ⟨-, hreply', -⟩ | ⟨-, -, e⟩
    · exact absurd rfl hne
    · exact absurd hreply hreply'
    · exact e

/-- A write of the table's length is sent (R132). -/
theorem writeRegister_sends (hl : lookup s.cfg a = some row) (hw : row.writable = true) :
    writeRegister a row.length s = complete (busXfer ((0x40 ||| a) :: obufBytes s row.length) s) := by
  rcases writeRegister_cases a row.length s with ⟨h, -⟩ | ⟨_, hl', -, h⟩
  · simp [hl, hw] at h
  · cases hl.symm.trans hl'
    rcases h with ⟨hne, -⟩ | ⟨-, e⟩
    · exact absurd rfl hne
    · exact e

end

/-- Settles O10: each command byte is the register access of its address, of the table's length (R94). -/
theorem registerCommandOutcomes : Obligations.RegisterCommandOutcomes := by
  intro s a hb ha rd wr
  obtain ⟨-, ⟨hrbuf, -⟩, -⟩ := hb
  rw [exec_ordinary rfl ha, exec_ordinary rfl ha, accepted, accepted, dropOffer_cfg]
  refine ⟨fun hdenied => ?_, fun hdenied => ?_, fun row hl hr => ?_, fun row hl hw => ?_⟩
  · rw [readRegister_denied (s := dropOffer s) hdenied]; rfl
  · rw [writeRegister_denied (s := dropOffer s) hdenied]; rfl
  · have hlen : tableLength s.cfg (a.zeroExtend 8) = row.length := tableLength_of_lookup hl
    simp only [rd, hlen]
    refine ⟨fun hreply => ?_, fun hreply => ⟨_, Memory.writeBytes_stores hrbuf s.cfg.bufCap _, ?_⟩⟩
    · rw [readRegister_wrongReply (s := dropOffer s) hl hr hreply]; rfl
    · have hrlen : rlenOf row.length = rlenOf ((busReply s (a.zeroExtend 8 :: padding row.length)).drop 1).length := by
        simp [hreply]
      rw [readRegister_delivers (s := dropOffer s) hl hr hreply, hrlen]; rfl
  · have hlen : tableLength s.cfg (a.zeroExtend 8) = row.length := tableLength_of_lookup hl
    simp only [wr, hlen]
    rw [writeRegister_sends (s := dropOffer s) hl hw]; rfl

/-! ### The eight fixed commands (R93, R94) -/

section
variable {i : Instr} {cmd : Byte} {n : Nat} {s : State}

/-- A window of more bytes than `OBUF` has is not sent (R24, R156). -/
theorem exec_writeWindow_tooLong (ha : AcceptsOrdinary s) (hk : opClass i = some .ordinary)
    (hbody : accepted i (dropOffer s) = writeWindow cmd n (dropOffer s)) (hlong : s.cfg.bufCap < n) :
    exec i s = .next { s with
      port := { s.port with offered := false }
      res := { s.res with status := .failed .frameLengthError, errInfo := 0 } } := by
  rw [exec_ordinary hk ha, hbody]
  rcases writeWindow_cases cmd n (dropOffer s) with ⟨-, e⟩ | ⟨hfits, -⟩
  · rw [e]; rfl
  · exact absurd hlong hfits.not_gt

/-- Any other is sent unchanged (R156). -/
theorem exec_writeWindow_sends (ha : AcceptsOrdinary s) (hk : opClass i = some .ordinary)
    (hbody : accepted i (dropOffer s) = writeWindow cmd n (dropOffer s)) (hfits : n ≤ s.cfg.bufCap) :
    exec i s = .next { s with
      port := { s.port with offered := false }
      env := envAfter (cmd :: obufBytes s n) s
      res := { s.res with firstRx := firstRxAfter (cmd :: obufBytes s n) s, status := .ok, errInfo := 0 } } := by
  rw [exec_ordinary hk ha, hbody]
  rcases writeWindow_cases cmd n (dropOffer s) with ⟨hlong, -⟩ | ⟨-, e⟩
  · exact absurd hlong hfits.not_gt
  · rw [e]; rfl

end

/-- Settles O14: three commands read a window, four write one, and one is the no-op. -/
theorem fixedCommandOutcomes : Obligations.FixedCommandOutcomes := by
  intro s hb ha
  obtain ⟨-, ⟨hrbuf, -⟩, -⟩ := hb
  refine ⟨?_, ?_, ?_⟩
  · intro p hp tx
    obtain ⟨hk, hbody⟩ :
        opClass p.1 = some .ordinary ∧ accepted p.1 (dropOffer s) = readWindow p.2.1 p.2.2 (dropOffer s) := by
      simp only [List.mem_cons, List.not_mem_nil, or_false] at hp
      rcases hp with rfl | rfl | rfl <;> exact ⟨rfl, rfl⟩
    exact ⟨exec_readWindow_wrongLength ha hk hbody, fun hlen =>
      ⟨_, Memory.writeBytes_stores hrbuf s.cfg.bufCap _, exec_readWindow_delivers ha hk hbody hlen⟩⟩
  · intro p hp tx
    obtain ⟨hk, hbody⟩ :
        opClass p.1 = some .ordinary ∧ accepted p.1 (dropOffer s) = writeWindow p.2.1 p.2.2 (dropOffer s) := by
      simp only [List.mem_cons, List.not_mem_nil, or_false] at hp
      rcases hp with rfl | rfl | rfl | rfl <;> exact ⟨rfl, rfl⟩
    exact ⟨exec_writeWindow_tooLong ha hk hbody, exec_writeWindow_sends ha hk hbody⟩
  · rw [exec_ordinary rfl ha]; rfl

end Sys2Proof.Machine
end

section
/-! SUPPORT. The register operations of the HOST port (R131 to R134): RDREG, WRREG and NOP. -/

namespace Sys2Proof.Machine

section
variable {s : State} {a : Byte} {len : Nat} {row : RegisterInfo}

/-! ### A length that is not the table's (R133): nothing is sent -/

theorem readRegister_wrongLength (hl : lookup s.cfg a = some row) (hr : row.readable = true) (hne : len ≠ row.length) :
    readRegister a len s = raise .lengthMismatch 0 s := by
  rcases readRegister_cases a len s with ⟨h, -⟩ | ⟨_, hl', -, h⟩
  · simp [hl, hr] at h
  · cases hl.symm.trans hl'
    rcases h with ⟨-, e⟩ | ⟨heq, -⟩ | ⟨heq, -⟩
    · exact e
    · exact absurd heq hne
    · exact absurd heq hne

theorem writeRegister_wrongLength (hl : lookup s.cfg a = some row) (hw : row.writable = true) (hne : len ≠ row.length) :
    writeRegister a len s = raise .lengthMismatch 0 s := by
  rcases writeRegister_cases a len s with ⟨h, -⟩ | ⟨_, hl', -, h⟩
  · simp [hl, hw] at h
  · cases hl.symm.trans hl'
    rcases h with ⟨-, e⟩ | ⟨heq, -⟩
    · exact e
    · exact absurd heq hne

end

/-! ### The accepted operations, each the access of its operands `A0` and `LEN` -/

section
variable {s : State} (ha : AcceptsOrdinary s)
include ha

theorem exec_rdreg : exec .rdreg s = .next (readRegister s.port.a0 s.port.len.toNat (dropOffer s)) := exec_ordinary rfl ha

theorem exec_wrreg : exec .wrreg s = .next (writeRegister s.port.a0 s.port.len.toNat (dropOffer s)) := exec_ordinary rfl ha

theorem exec_nop : exec .nop s = .next (noOperation (dropOffer s)) := exec_ordinary rfl ha

end

/-- Settles O8: by the direction of the row, then the length, then the number of bytes in the reply. -/
theorem rdregOutcomes : Obligations.RdregOutcomes := by
  intro s hb ha tx
  obtain ⟨-, ⟨hrbuf, -⟩, -⟩ := hb
  rw [exec_rdreg ha]
  refine ⟨fun hdenied => ?_, fun row hl hr hne => ?_, fun row hl hr hlen => ?_⟩
  · rw [readRegister_denied (s := dropOffer s) hdenied]; rfl
  · rw [readRegister_wrongLength (s := dropOffer s) hl hr hne]; rfl
  · simp only [tx, hlen]
    refine ⟨fun hreply => ?_, fun hreply => ⟨_, Memory.writeBytes_stores hrbuf s.cfg.bufCap _, ?_⟩⟩
    · rw [readRegister_wrongReply (s := dropOffer s) hl hr hreply]; rfl
    · have hfits : row.length < 2 ^ 16 := hlen ▸ s.port.len.isLt
      have hrlen : BitVec.ofNat 16 row.length = rlenOf ((busReply s (s.port.a0 :: padding row.length)).drop 1).length := by
        rw [List.length_drop, hreply, Nat.add_sub_cancel, rlenOf_of_lt hfits]
      rw [readRegister_delivers (s := dropOffer s) hl hr hreply, hrlen]; rfl

/-- Settles O9: by the direction of the row, then the length; a write has no reply to check. -/
theorem wrregOutcomes : Obligations.WrregOutcomes := by
  intro s ha tx
  rw [exec_wrreg ha]
  refine ⟨fun hdenied => ?_, fun row hl hw hne => ?_, fun row hl hw hlen => ?_⟩
  · rw [writeRegister_denied (s := dropOffer s) hdenied]; rfl
  · rw [writeRegister_wrongLength (s := dropOffer s) hl hw hne]; rfl
  · simp only [tx, hlen]
    rw [writeRegister_sends (s := dropOffer s) hl hw]; rfl

/-- Settles O11: the no-op is one transaction of the byte 0xFF and a completion. -/
theorem nopSendsOneByte : Obligations.NopSendsOneByte := fun s ha =>
  calc exec .nop s
    _ = .next (noOperation (dropOffer s)) := exec_nop ha
    _ = .next (complete (busXfer [0xFF] (dropOffer s))) := rfl
    _ = _ := rfl

end Sys2Proof.Machine
end

section
/-! SUPPORT. The bulk writes and the firmware blocks as operations of the HOST (R24, R152, R156 to R159). -/

namespace Sys2Proof.Machine

section
variable {i : Instr} {cmd : Byte} {n : Nat} {s : State}

/-! ### The check of `LEN` (R152): it comes before the write -/

theorem checkedWrite_wrongLength (hne : s.port.len.toNat ≠ n) : checkedWrite cmd n s = raise .frameLengthError 0 s := if_pos hne

/-- With the right `LEN` the operation is the write that the command byte alone stands for (R94, R156). -/
theorem checkedWrite_rightLength (hlen : s.port.len.toNat = n) : checkedWrite cmd n s = writeWindow cmd n s :=
  if_neg (not_not_intro hlen)

/-- A wrong `LEN` puts nothing on the bus, and of the results only `STATUS` and `ERR_INFO` are written (R152). -/
theorem exec_checkedWrite_wrongLength (ha : AcceptsOrdinary s) (hk : opClass i = some .ordinary)
    (hbody : accepted i (dropOffer s) = checkedWrite cmd n (dropOffer s)) (hne : s.port.len.toNat ≠ n) :
    exec i s = .next { s with
      port := { s.port with offered := false }
      res := { s.res with status := .failed .frameLengthError, errInfo := 0 } } := by
  rw [exec_ordinary hk ha, hbody, checkedWrite_wrongLength (s := dropOffer s) hne]
  rfl

end

/-- Settles O13: the four operations are one body with four windows; by whether `LEN` is the window's, then by whether `OBUF` has
that many bytes. -/
theorem bulkWriteOutcomes : Obligations.BulkWriteOutcomes := by
  intro s ha p hp tx
  obtain ⟨hk, hbody⟩ :
      opClass p.1 = some .ordinary ∧ accepted p.1 (dropOffer s) = checkedWrite p.2.1 p.2.2 (dropOffer s) := by
    simp only [List.mem_cons, List.not_mem_nil, or_false] at hp
    rcases hp with rfl | rfl | rfl | rfl <;> exact ⟨rfl, rfl⟩
  have hwrite (hlen : s.port.len.toNat = p.2.2) : accepted p.1 (dropOffer s) = writeWindow p.2.1 p.2.2 (dropOffer s) :=
    hbody.trans (checkedWrite_rightLength (s := dropOffer s) hlen)
  refine ⟨fun hwrong => ?_, fun hlen hfits => exec_writeWindow_sends ha hk (hwrite hlen) hfits⟩
  by_cases hlen : s.port.len.toNat = p.2.2
  · exact exec_writeWindow_tooLong ha hk (hwrite hlen) (hwrong.resolve_left (not_not_intro hlen))
  · exact exec_checkedWrite_wrongLength ha hk hbody hlen

end Sys2Proof.Machine
end

section
/-! SUPPORT. The column "call-out" and the column "IRQD stepping" of R300, and the two operations of the dispatcher: POLL (R172)
and HRET (R181, R182). -/

namespace Sys2Proof.Machine

/-! ### The columns of a dispatch -/

/-- A dispatch is not re-entrant (R182). -/
theorem acceptance_call_refused {k : OpClass} (hk : k = .poll ∨ k = .discstart ∨ k = .attach ∨ k = .detach) :
    acceptance k .call = .refused := by
  rcases hk with rfl | rfl | rfl | rfl <;> rfl

/-- A stepping dispatcher holds every row of R300 but HRET's. -/
theorem acceptance_stepping_held {k : OpClass} (hk : k ≠ .hret) : acceptance k .stepping = .held := by
  cases k with
  | hret => exact absurd rfl hk
  | _ => rfl

/-- HRET is never held. -/
theorem acceptance_hret_refused {c : PortColumn} (h : acceptance .hret c ≠ .accept) : acceptance .hret c = .refused := by
  cases c with
  | call => exact absurd rfl h
  | _ => rfl

/-- HRET is alone in its row of R300. -/
theorem opClass_eq_hret {i : Instr} (h : opClass i = some .hret) : i = .hret := by
  cases i with
  | hret => rfl
  | _ => cases h

/-- What is not accepted stays requested or is dropped (R15). -/
theorem accepting_of_not_accept {k : OpClass} {run : State → State} {s : State}
    (h : acceptance k (portColumn s) ≠ .accept) :
    accepting k run s = .next s ∨ accepting k run s = .next (dropOffer s) := by
  cases hd : acceptance k (portColumn s) with
  | accept => exact absurd hd h
  | held => exact .inl (accepting_held hd)
  | refused => exact .inr (accepting_refused hd)

section
variable {s : State}

theorem exec_refused_of_call (hc : InCall s) {i : Instr} {k : OpClass} (hi : opClass i = some k)
    (hk : k = .poll ∨ k = .discstart ∨ k = .attach ∨ k = .detach) : exec i s = .next (dropOffer s) := by
  have hcol := portColumn_call hc
  rw [exec_eq_accepting s hi, if_neg (by simp [hcol]), accepting_refused (by rw [hcol, acceptance_call_refused hk])]

theorem exec_held_of_stepping (hs : InStepping s) {i : Instr} {k : OpClass} (hi : opClass i = some k) (hne : i ≠ .hret) :
    exec i s = .next s := by
  have hcol := portColumn_stepping hs
  have hk : k ≠ .hret := by
    rintro rfl
    exact hne (opClass_eq_hret hi)
  rw [exec_eq_accepting s hi, if_neg (by simp [hcol]), accepting_held (by rw [hcol, acceptance_stepping_held hk])]

theorem not_inCall_of_inStepping (hs : InStepping s) : ¬ InCall s := fun ⟨_, hcall⟩ =>
  let ⟨_, _, hne⟩ := hs
  hne hcall

theorem exec_hret_of_not_call (hc : ¬ InCall s) : exec .hret s = .next (dropOffer s) :=
  accepting_refused (acceptance_hret_refused (mt inCall_of_accept hc))

end

/-- Settles O34, by the two columns of R300. -/
theorem dispatchGatesOperations : Obligations.DispatchGatesOperations := by
  refine ⟨fun s hc i hi => ?_, fun s h i hdec hs => ?_⟩
  · simp only [List.mem_cons, List.not_mem_nil, or_false] at hi
    rcases hi with rfl | rfl | rfl | rfl <;> exact exec_refused_of_call hc rfl (by simp)
  · obtain ⟨k, hk⟩ := opClass_of_host hdec
    split
    next hhret =>
      subst hhret
      exact exec_hret_of_not_call (not_inCall_of_inStepping hs)
    next hne => exact exec_held_of_stepping hs hk hne

/-! ### POLL (R172) -/

section
variable {s : State}

theorem pollBody_quiet (h : s.irqd.irqPending = false) : pollBody s = complete s := by simp [pollBody, h]

theorem pollBody_pending (h : s.irqd.irqPending = true) : pollBody s = startPass s := if_pos h

theorem exec_poll_of_normal (hn : InNormal s) : exec .poll s = .next (pollBody (dropOffer s)) :=
  accepting_accept (by rw [portColumn_normal hn]; rfl)

end

/-- Settles O22: POLL is accepted in mode NORMAL only, and there `irq_pending` decides. -/
theorem pollOutcomes : Obligations.PollOutcomes := by
  refine fun s => ⟨fun hn hquiet => ?_, fun hn hpending => ?_, fun hn => ?_⟩
  · rw [exec_poll_of_normal hn, pollBody_quiet (s := dropOffer s) hquiet]
    rfl
  · rw [exec_poll_of_normal hn, pollBody_pending (s := dropOffer s) hpending]
    rfl
  · exact accepting_of_not_accept (mt (inNormal_of_accept (.inl rfl)) hn)

/-! ### HRET (R181) -/

/-- Consuming a flag sets its bit of `CONS` and keeps the others. -/
theorem getLsbD_setFlag_true (v : BitVec 4) {j k : Nat} (hj : j < 4) (hk : k < 4) :
    (setFlag v j true).getLsbD k = (v.getLsbD k || decide (k = j)) := by
  rw [setFlag_getLsbD v hj true hk]
  by_cases h : k = j <;> simp [h]

theorem exec_hret_of_call {s : State} (hc : InCall s) : exec .hret s = .next (returnFromHandler (dropOffer s)) :=
  accepting_accept (by rw [portColumn_call hc]; rfl)

/-- Settles O23: HRET runs in a call-out, where the bit of `HCALL` is set in `CONS`, and is dropped elsewhere. -/
theorem hretConsumesFlag : Obligations.HretConsumesFlag := by
  refine fun s => ⟨fun hc => ?_, exec_hret_of_not_call⟩
  refine ⟨setFlag s.irqd.cons s.irqd.hcall.toNat true, fun k hk => getLsbD_setFlag_true _ (by omega) hk, ?_⟩
  rw [exec_hret_of_call hc]
  rfl

end Sys2Proof.Machine
end

section
/-! SUPPORT. The steps of a dispatch pass (R171, R173 to R188): the reads of the flag registers, the choice of the handler, the
write-backs and the end. -/

namespace Sys2Proof.Machine

/-! ### Whose turn it is (R171) -/

/-- A scripted turn of the sequencers is the step of the state that the dispatcher is in. -/
theorem step_seq_dispatcher {s : State} {rest : List Act} (hw : s.cfg.wf = true) (hs : NextAct .seq rest s) :
    (s.irqd.iq = .rdflags → step s = .next (stepRdflags (withScript rest s)))
      ∧ (s.irqd.iq = .rdext → step s = .next (stepRdext (withScript rest s)))
      ∧ (s.irqd.iq = .dispatch → step s = .next (stepDispatch (withScript rest s)))
      ∧ (s.irqd.iq = .wbext → step s = .next (stepWbext (withScript rest s)))
      ∧ (s.irqd.iq = .wbflags → step s = .next (stepWbflags (withScript rest s))) := by
  refine ⟨fun hi => ?_, fun hi => ?_, fun hi => ?_, fun hi => ?_, fun hi => ?_⟩ <;>
    simp only [step_act hw hs, applyAct, seqTurn, withScript_irqd, hi]

/-! ### The accesses to a flag register (R140), which the table allows (R9 (d)) -/

section
variable {s : State} {a : Byte}

/-- A wrong number of bytes is the failure of R67. -/
theorem readFlagRegister_wrongReply (hrw : readWrite s.cfg a = true)
    (hlen : (busReply s (a :: padding (tableLength s.cfg a))).length ≠ tableLength s.cfg a + 1) :
    readFlagRegister a s = (.error .lengthMismatch, busXfer (a :: padding (tableLength s.cfg a)) s) := by
  obtain ⟨row, hl, hr, -⟩ := readWrite_row hrw
  rw [tableLength_of_lookup hl] at hlen ⊢
  rcases readFlagRegister_cases hl hr with ⟨-, e⟩ | ⟨h, -⟩
  · exact e
  · exact absurd h hlen

theorem readFlagRegister_observes (hrw : readWrite s.cfg a = true)
    (hlen : (busReply s (a :: padding (tableLength s.cfg a))).length = tableLength s.cfg a + 1) :
    readFlagRegister a s =
      (.ok (be ((busReply s (a :: padding (tableLength s.cfg a))).drop 1)), busXfer (a :: padding (tableLength s.cfg a)) s) := by
  obtain ⟨row, hl, hr, -⟩ := readWrite_row hrw
  rw [tableLength_of_lookup hl] at hlen ⊢
  rcases readFlagRegister_cases hl hr with ⟨h, -⟩ | ⟨-, e⟩
  · exact absurd hlen h
  · exact e

theorem writeBack_zero : writeBack a 0 s = s := if_pos rfl

theorem writeBack_sends (hrw : readWrite s.cfg a = true) {v : Nat} (hv : v ≠ 0) :
    writeBack a v s = busXfer ((0x40 ||| a) :: beBytes (tableLength s.cfg a) v) s := by
  obtain ⟨row, hl, -, hwr⟩ := readWrite_row hrw
  rw [tableLength_of_lookup hl]
  rcases writeBack_cases (v := v) hl hwr with ⟨h, -⟩ | ⟨-, e⟩
  · exact absurd h hv
  · exact e

end

/-- R9 (d): both flag registers may be read and written. -/
theorem cfg_wf_readWrite {c : Cfg} (h : c.wf = true) :
    readWrite c c.irqFlagsAddr = true ∧ readWrite c c.extIrqFlagsAddr = true := by
  obtain ⟨-, ⟨row, hl, hr, hwr⟩, rowExt, hlExt, hrExt, hwrExt⟩ := cfg_wf_flagRegisters h
  exact ⟨by simp [readWrite, hl, hr, hwr], by simp [readWrite, hlExt, hrExt, hwrExt]⟩

/-! ### `IQ_RDFLAGS` and `IQ_RDEXT` (R173, R174, R176) -/

section
variable {s t : State} {obs : Nat}

/-- A failed read ends the pass (R176). -/
theorem stepRdflags_fails {e : Failure} (h : readFlagRegister s.cfg.irqFlagsAddr s = (.error e, t)) :
    stepRdflags s = failPass e t := by
  simp only [stepRdflags, h]

theorem stepRdext_fails {e : Failure} (h : readFlagRegister s.cfg.extIrqFlagsAddr s = (.error e, t)) :
    stepRdext s = failPass e t := by
  simp only [stepRdext, h]

theorem stepRdflags_observes (h : readFlagRegister s.cfg.irqFlagsAddr s = (.ok obs, t)) :
    stepRdflags s = { t with irqd := { t.irqd with
      obsFlags := obs
      pend := pendOfFlags t.cfg obs t.irqd.pend
      iq := if obs.testBit t.cfg.bExtended then .rdext else .dispatch } } := by
  simp only [stepRdflags, h]

theorem stepRdext_observes (h : readFlagRegister s.cfg.extIrqFlagsAddr s = (.ok obs, t)) :
    stepRdext s = { t with irqd := { t.irqd with
      obsExt := obs, extRead := true, pend := pendOfExt t.cfg obs t.irqd.pend, iq := .dispatch } } := by
  simp only [stepRdext, h]

end

/-- Settles O24: the read of `IRQ_FLAGS` fails, or bits 0 and 1 of `PEND` are the observed flags. -/
theorem irqFlagsRead : Obligations.IrqFlagsRead := by
  intro s rest hw hi hs s₀ tx obs
  obtain ⟨hrw, -⟩ := cfg_wf_readWrite hw
  obtain ⟨hstep, -⟩ := step_seq_dispatcher hw hs
  rw [hstep hi]
  refine ⟨fun hlen => ?_, fun hlen => ?_⟩
  · rw [stepRdflags_fails (readFlagRegister_wrongReply (s := withScript rest s) hrw hlen)]
    rfl
  · obtain ⟨hrf, hdmx, hrdm, hradio⟩ := pendOfFlags_bits s.cfg obs s.irqd.pend
    refine ⟨pendOfFlags s.cfg obs s.irqd.pend, hrf, hdmx, hrdm, hradio, ?_⟩
    rw [stepRdflags_observes (readFlagRegister_observes (s := withScript rest s) hrw hlen)]
    rfl

/-- Settles O25: the read of `EXT_IRQ_FLAGS` fails, or bits 2 and 3 of `PEND` are the observed flags. -/
theorem extFlagsRead : Obligations.ExtFlagsRead := by
  intro s rest hw hi hs s₀ tx obs
  obtain ⟨-, hrw⟩ := cfg_wf_readWrite hw
  obtain ⟨-, hstep, -⟩ := step_seq_dispatcher hw hs
  rw [hstep hi]
  refine ⟨fun hlen => ?_, fun hlen => ?_⟩
  · rw [stepRdext_fails (readFlagRegister_wrongReply (s := withScript rest s) hrw hlen)]
    rfl
  · obtain ⟨hrf, hdmx, hrdm, hradio⟩ := pendOfExt_bits s.cfg obs s.irqd.pend
    refine ⟨pendOfExt s.cfg obs s.irqd.pend, hrdm, hradio, hrf, hdmx, ?_⟩
    rw [stepRdext_observes (readFlagRegister_observes (s := withScript rest s) hrw hlen)]
    rfl

/-! ### `IQ_DISPATCH` (R177 to R179) -/

theorem eligible_iff {d : Irqd} {k : Nat} :
    eligible d k = true ↔ d.pend.getLsbD k = true ∧ d.cons.getLsbD k = false ∧ (d.stale = false ∨ k = 0) := by
  simp [eligible, and_assoc]

theorem stepDispatch_calls {s : State} {k : BitVec 2} (h : nextHandler s.irqd = some k) :
    stepDispatch s = { s with irqd := { s.irqd with hcall := k, iq := .call } } := by
  simp only [stepDispatch, h]

theorem stepDispatch_writesBack {s : State} (h : nextHandler s.irqd = none) :
    stepDispatch s = { s with irqd := { s.irqd with iq := .wbext } } := by
  simp only [stepDispatch, h]

/-- Settles O26: the handlers that are ready are the eligible ones, and the next handler is the least of them. -/
theorem dispatchCallsLeastEligible : Obligations.DispatchCallsLeastEligible := by
  intro s rest hw hi hs s₀ ready
  have heligible (k : Nat) : eligible s.irqd k = true ↔ ready k := eligible_iff
  have hnot (k : Nat) : ¬ ready k → eligible s.irqd k = false := fun h => by simpa using mt (heligible k).mp h
  obtain ⟨-, -, hstep, -⟩ := step_seq_dispatcher hw hs
  rw [hstep hi]
  refine ⟨fun k hk hleast => ?_, fun hnone => ?_⟩
  · have hnext : nextHandler s₀.irqd = some k :=
      nextHandler_some.mpr ⟨(heligible _).mpr hk, fun j hj => hnot j (hleast j hj)⟩
    exact congrArg _ (stepDispatch_calls hnext)
  · have hnext : nextHandler s₀.irqd = none := nextHandler_none.mpr fun k hk => hnot k (hnone k hk)
    exact congrArg _ (stepDispatch_writesBack hnext)

/-! ### `IQ_WBEXT`, `IQ_WBFLAGS` and the end of the pass (R183 to R188) -/

section
variable {s : State}

theorem stepWbext_skips (hv : wbExt s.cfg s.irqd = 0) : stepWbext s = { s with irqd := { s.irqd with iq := .wbflags } } := by
  simp only [stepWbext, hv, writeBack_zero]

theorem stepWbext_sends (hrw : readWrite s.cfg s.cfg.extIrqFlagsAddr = true) (hv : wbExt s.cfg s.irqd ≠ 0) :
    stepWbext s =
      { busXfer ((0x40 ||| s.cfg.extIrqFlagsAddr) :: beBytes (lenExtIrqFlags s.cfg) (wbExt s.cfg s.irqd)) s with
        irqd := { s.irqd with iq := .wbflags } } := by
  simp only [stepWbext, writeBack_sends hrw hv, busXfer_irqd, lenExtIrqFlags]

theorem stepWbflags_skips (hv : wbFlags s.cfg s.irqd = 0) : stepWbflags s = endPass s := by
  rw [stepWbflags, hv, writeBack_zero]

theorem stepWbflags_sends (hrw : readWrite s.cfg s.cfg.irqFlagsAddr = true) (hv : wbFlags s.cfg s.irqd ≠ 0) :
    stepWbflags s =
      endPass (busXfer ((0x40 ||| s.cfg.irqFlagsAddr) :: beBytes (lenIrqFlags s.cfg) (wbFlags s.cfg s.irqd)) s) := by
  rw [stepWbflags, writeBack_sends hrw hv, lenIrqFlags]

/-- The pass re-arms when some observed flag is left (R188). -/
theorem someUnconsumed_eq_decide (d : Irqd) : someUnconsumed d = decide (d.pend &&& ~~~d.cons ≠ 0) := by
  rw [Bool.eq_iff_iff, someUnconsumed, bne_iff_ne, decide_eq_true_iff]

theorem endPass_eq : endPass s = { s with
    irqd := { s.irqd with irqPending := s.irqd.irqPending || decide (s.irqd.pend &&& ~~~s.irqd.cons ≠ 0), iq := .idle }
    res := { s.res with status := .ok, errInfo := 0 } } := by
  rw [endPass, someUnconsumed_eq_decide]
  rfl

end

/-- Settles O27: each write-back is skipped or sent, and after that of `IRQ_FLAGS` the pass ends. -/
theorem writeBackAndEnd : Obligations.WriteBackAndEnd := by
  intro s rest hw hs s₀ txe txf ended
  obtain ⟨hrw, hrwExt⟩ := cfg_wf_readWrite hw
  obtain ⟨-, -, -, hstepExt, hstepFlags⟩ := step_seq_dispatcher hw hs
  refine ⟨fun hi => ?_, fun hi => ?_⟩
  · rw [hstepExt hi]
    refine ⟨fun hv => ?_, fun hv => ?_⟩
    · exact congrArg _ (stepWbext_skips (s := s₀) hv)
    · exact congrArg _ (stepWbext_sends (s := s₀) hrwExt hv)
  · rw [hstepFlags hi]
    refine ⟨fun hv => ?_, fun hv => ?_⟩
    · rw [stepWbflags_skips (s := withScript rest s) hv, endPass_eq]
      rfl
    · rw [stepWbflags_sends (s := withScript rest s) hrw hv, endPass_eq]
      rfl

/-! ### The values written back (R185, R186) -/

section
variable {c : Cfg} {d : Irqd} {b : Nat}

theorem wbExt_testBit : (wbExt c d).testBit b = true ↔
    (d.cons.getLsbD hSpiRdm = true ∧ b = c.bSpiRdm) ∨ (d.cons.getLsbD hSpiRadioDisc = true ∧ b = c.bSpiRadioDisc) := by
  simp only [wbExt, Nat.testBit_or, flagAt_testBit, Bool.or_eq_true, Bool.and_eq_true, decide_eq_true_iff]

theorem extDone_iff : extDone d = true ↔ d.extRead = true
    ∧ (d.pend.getLsbD hSpiRdm = true → d.cons.getLsbD hSpiRdm = true)
    ∧ (d.pend.getLsbD hSpiRadioDisc = true → d.cons.getLsbD hSpiRadioDisc = true) := by
  simp only [extDone, Bool.and_eq_true, Bool.or_eq_true, Bool.not_eq_true', and_assoc, ← Bool.not_eq_true, ← imp_iff_not_or]

theorem wbFlags_testBit : (wbFlags c d).testBit b = true ↔
    (d.cons.getLsbD hRfLink = true ∧ b = c.bRfLink) ∨ (d.cons.getLsbD hDmxChanged = true ∧ b = c.bDmxChanged)
      ∨ (extDone d = true ∧ b = c.bExtended) := by
  simp only [wbFlags, Nat.testBit_or, flagAt_testBit, Bool.or_eq_true, Bool.and_eq_true, decide_eq_true_iff, or_assoc]

/-- A consumed flag was pending, so it was observed. -/
theorem DispatchSound.wbFlags_observed (h : DispatchSound c d) (hb : (wbFlags c d).testBit b = true) :
    d.obsFlags.testBit b = true := by
  rcases wbFlags_testBit.mp hb with ⟨hcons, rfl⟩ | ⟨hcons, rfl⟩ | ⟨hdone, rfl⟩
  · exact h.rfLink_observed (h.consumed_pending _ (by decide) hcons)
  · exact h.dmxChanged_observed (h.consumed_pending _ (by decide) hcons)
  · exact h.extended_observed (.inl (extDone_iff.mp hdone).1)

theorem DispatchSound.wbExt_observed (h : DispatchSound c d) (hb : (wbExt c d).testBit b = true) :
    d.obsExt.testBit b = true := by
  rcases wbExt_testBit.mp hb with ⟨hcons, rfl⟩ | ⟨hcons, rfl⟩
  · exact h.spiRdm_observed (h.consumed_pending _ (by decide) hcons)
  · exact h.spiRadioDisc_observed (h.consumed_pending _ (by decide) hcons)

/-- Nothing is written to a register that was not read. -/
theorem DispatchSound.wbExt_unread (h : DispatchSound c d) (hread : d.extRead = false) : wbExt c d = 0 := by
  refine Nat.zero_of_testBit_eq_false fun b => Bool.eq_false_iff.mpr fun hb => ?_
  have hobs := h.wbExt_observed hb
  simp [h.ext_unread hread] at hobs

end

/-- Settles O28: the bits are those of the shifted flags, and sound registers have observed each. -/
theorem writeBackValues : Obligations.WriteBackValues := by
  refine fun c d => ⟨fun b => wbExt_testBit, fun b => ?_, fun h =>
    ⟨fun b => h.wbFlags_observed, fun b => h.wbExt_observed, h.wbExt_unread⟩⟩
  rw [wbFlags_testBit, extDone_iff, and_assoc, and_assoc]
  rfl

end Sys2Proof.Machine
end

section
/-! SUPPORT. RDMDEC and the parser behind it (R205, R206, R210 to R213, R216, R218). -/

namespace Sys2Proof.Machine

/-! ### Two bytes, most significant first (R11) -/

section
variable {f : List Byte} {i j : Nat} {b : Byte}

theorem be_slice_two (h : i + 2 ≤ f.length) :
    be (slice f i 2) = 256 * (byteAt f i).toNat + (byteAt f (i + 1)).toNat := by
  have hdrop : f.drop i = byteAt f i :: byteAt f (i + 1) :: f.drop (i + 2) := by
    rw [List.drop_eq_getElem_cons (by omega), List.drop_eq_getElem_cons (by omega), byteAt, byteAt,
      List.getD_eq_getElem _ _ (by omega), List.getD_eq_getElem _ _ (by omega)]
  simp [slice, hdrop, be]

theorem ofNat_be_take_two (h : 2 ≤ f.length) : BitVec.ofNat 16 (be (f.take 2)) = byteAt f 0 ++ byteAt f 1 := by
  apply BitVec.eq_of_toNat_eq
  have hbe : be (f.take 2) = 256 * (byteAt f 0).toNat + (byteAt f 1).toNat :=
    be_slice_two (i := 0) (by omega)
  rw [hbe, BitVec.toNat_ofNat, BitVec.toNat_append, ← Nat.shiftLeft_add_eq_or_of_lt (BitVec.isLt _), Nat.shiftLeft_eq]
  omega

/-! ### One byte changed -/

theorem byteAt_set_same (h : i < f.length) : byteAt (f.set i b) i = b := by
  simp [byteAt, h]

theorem byteAt_set_ne (h : i ≠ j) : byteAt (f.set i b) j = byteAt f j := by
  simp [byteAt, List.getD, h]

theorem sum_toNat_set (h : i < f.length) :
    ((f.set i b).map (·.toNat)).sum + (byteAt f i).toNat = (f.map (·.toNat)).sum + b.toNat := by
  induction f generalizing i with
  | nil => cases h
  | cons a f ih =>
    cases i with
    | zero =>
      have hhead : byteAt (a :: f) 0 = a := rfl
      simp only [List.set_cons_zero, List.map_cons, List.sum_cons, hhead]
      omega
    | succ i =>
      have htail : byteAt (a :: f) (i + 1) = byteAt f i := by simp [byteAt]
      have := ih (Nat.lt_of_succ_lt_succ h)
      simp only [List.set_cons_succ, List.map_cons, List.sum_cons, htail]
      omega

/-- The sum moves by less than 256 and not by 0, so it differs modulo 65536 as well (R218). -/
theorem checksum_set_ne (h : i < f.length) (hb : b ≠ byteAt f i) :
    (checksum (f.set i b)).toNat ≠ (checksum f).toNat := by
  have hsum := sum_toNat_set (b := b) h
  have hne : b.toNat ≠ (byteAt f i).toNat := mt BitVec.eq_of_toNat_eq hb
  rw [checksum_toNat, checksum_toNat]
  omega

/-- A stored value of two bytes differs when one of them does. -/
theorem be_slice_two_set_ne {n : Nat} (hn : n + 2 ≤ f.length) (hi : i = n ∨ i = n + 1) (hb : b ≠ byteAt f i) :
    be (slice (f.set i b) n 2) ≠ be (slice f n 2) := by
  have hne : b.toNat ≠ (byteAt f i).toNat := mt BitVec.eq_of_toNat_eq hb
  rw [be_slice_two (by simpa using hn), be_slice_two hn]
  rcases hi with rfl | rfl
  · rw [byteAt_set_same (by omega), byteAt_set_ne (by omega)]
    omega
  · rw [byteAt_set_same (by omega), byteAt_set_ne (by omega)]
    omega

end

/-! ### The checks of the parser (R205) -/

section
variable {f : List Byte}

theorem frameParse_badStartCode (h : byteAt f 0 ≠ startCode ∨ byteAt f 1 ≠ subStartCode) :
    frameParse f = some .badStartCode := by
  rw [frameParse, if_pos (.inr h)]

/-- The start codes are right: the first check passes. -/
theorem startCodes_pass (hlen : 2 ≤ f.length) (h0 : byteAt f 0 = startCode) (h1 : byteAt f 1 = subStartCode) :
    ¬ (f.length < 2 ∨ byteAt f 0 ≠ startCode ∨ byteAt f 1 ≠ subStartCode) := by
  simp [h0, h1, Nat.not_lt.mpr hlen]

theorem frameParse_lengthMismatch (hlen : 2 ≤ f.length) (h0 : byteAt f 0 = startCode) (h1 : byteAt f 1 = subStartCode)
    (h : (byteAt f 2).toNat ≠ 24 + (byteAt f 23).toNat) : frameParse f = some .lengthMismatch := by
  rw [frameParse, if_neg (startCodes_pass hlen h0 h1), if_pos (.inr (.inr (.inl h)))]

end

/-- A frame that passes the start codes and the lengths, the first two checks of R205. -/
structure WellShaped (f : List Byte) : Prop where
  start : byteAt f 0 = startCode
  subStart : byteAt f 1 = subStartCode
  pdl_le : (byteAt f 23).toNat ≤ 230
  ml_eq : (byteAt f 2).toNat = 24 + (byteAt f 23).toNat
  length_eq : f.length = (byteAt f 2).toNat + 2

/-- The third check alone decides of a frame that passes the first two. -/
theorem WellShaped.frameParse_eq {f : List Byte} (h : WellShaped f) : frameParse f =
    if (checksum (f.take (byteAt f 2).toNat)).toNat ≠ be (slice f (byteAt f 2).toNat 2) then some .checksumError else none := by
  obtain ⟨h0, h1, hpdl, hml, hlen⟩ := h
  rw [frameParse, if_neg (startCodes_pass (by omega) h0 h1), if_neg (by omega)]

theorem frameParse_eq_none_iff {f : List Byte} : frameParse f = none ↔
    WellShaped f ∧ (checksum (f.take (byteAt f 2).toNat)).toNat = be (slice f (byteAt f 2).toNat 2) := by
  constructor
  · intro h
    have hshape : WellShaped f := by
      unfold frameParse at h
      split at h
      · cases h
      next hstart =>
        split at h
        · cases h
        next hlen =>
          simp only [not_or, not_not, not_lt] at hstart hlen
          obtain ⟨-, h0, h1⟩ := hstart
          obtain ⟨-, hpdl, hml, hlen⟩ := hlen
          exact ⟨h0, h1, hpdl, hml, hlen⟩
    rw [hshape.frameParse_eq] at h
    exact ⟨hshape, by simpa using h⟩
  · rintro ⟨hshape, hck⟩
    rw [hshape.frameParse_eq, if_neg (not_not.mpr hck)]

/-- The parameter data is as long as its length byte says (R206). -/
theorem WellShaped.frameData_length {f : List Byte} (h : WellShaped f) : (frameData f).length = (byteAt f 23).toNat := by
  have hlen := h.length_eq
  have hml := h.ml_eq
  simp only [frameData, slice, List.length_take, List.length_drop]
  omega

/-! ### One changed byte of a frame (R218) -/

section
variable {f : List Byte} {i : Nat} {b : Byte}

/-- A byte that is neither a start code nor a length does not change the shape. -/
theorem WellShaped.set (h : WellShaped f) (h0 : i ≠ 0) (h1 : i ≠ 1) (h2 : i ≠ 2) (h23 : i ≠ 23) : WellShaped (f.set i b) where
  start := by rw [byteAt_set_ne h0, h.start]
  subStart := by rw [byteAt_set_ne h1, h.subStart]
  pdl_le := by rw [byteAt_set_ne h23]; exact h.pdl_le
  ml_eq := by rw [byteAt_set_ne h2, byteAt_set_ne h23, h.ml_eq]
  length_eq := by rw [byteAt_set_ne h2, List.length_set, h.length_eq]

theorem frameParse_set_startCode (hf : WellShaped f) (hi : i = 0 ∨ i = 1) (hb : b ≠ byteAt f i) :
    frameParse (f.set i b) = some .badStartCode := by
  have hlen := hf.length_eq
  rcases hi with rfl | rfl
  · exact frameParse_badStartCode (.inl (by rwa [byteAt_set_same (by omega), ← hf.start]))
  · exact frameParse_badStartCode (.inr (by rwa [byteAt_set_same (by omega), ← hf.subStart]))

theorem frameParse_set_length (hf : WellShaped f) (hi : i = 2 ∨ i = 23) (hb : b ≠ byteAt f i) :
    frameParse (f.set i b) = some .lengthMismatch := by
  have hlen := hf.length_eq
  have hml := hf.ml_eq
  have hne : b.toNat ≠ (byteAt f i).toNat := mt BitVec.eq_of_toNat_eq hb
  have h0 : byteAt (f.set i b) 0 = startCode := by rw [byteAt_set_ne (by omega), hf.start]
  have h1 : byteAt (f.set i b) 1 = subStartCode := by rw [byteAt_set_ne (by omega), hf.subStart]
  refine frameParse_lengthMismatch (by rw [List.length_set]; omega) h0 h1 ?_
  rcases hi with rfl | rfl
  · rw [byteAt_set_same (by omega), byteAt_set_ne (by omega), ← hml]
    exact hne
  · rw [byteAt_set_same (by omega), byteAt_set_ne (by omega), hml]
    omega

/-- Any other byte changes the sum or the stored value, and not both. -/
theorem frameParse_set_checksum (hf : WellShaped f)
    (hck : (checksum (f.take (byteAt f 2).toNat)).toNat = be (slice f (byteAt f 2).toNat 2))
    (h01 : ¬ (i = 0 ∨ i = 1)) (hlens : ¬ (i = 2 ∨ i = 23)) (hi : i < f.length) (hb : b ≠ byteAt f i) :
    frameParse (f.set i b) = some .checksumError := by
  obtain ⟨h0, h1⟩ := not_or.mp h01
  obtain ⟨h2, h23⟩ := not_or.mp hlens
  have hlen := hf.length_eq
  rw [(hf.set h0 h1 h2 h23).frameParse_eq, byteAt_set_ne h2, if_pos]
  generalize (byteAt f 2).toNat = n at hck hlen
  by_cases hin : i < n
  · have hslice : slice (f.set i b) n 2 = slice f n 2 := by rw [slice, List.drop_set_of_lt hin, slice]
    have hbyte : byteAt (f.take n) i = byteAt f i := by simp [byteAt, List.getD, hin]
    rw [hslice, ← hck, List.take_set]
    exact checksum_set_ne (by rw [List.length_take]; omega) (by rwa [hbyte])
  · rw [List.take_set_of_le (by omega), hck]
    exact (be_slice_two_set_ne (by omega) (by omega) hb).symm

end

/-- Settles O18: by the offset, a start code, a length, or a byte of the checksum or of what it covers. -/
theorem singleByteChangeDetected : Obligations.SingleByteChangeDetected := by
  intro f i b hf hi hb
  obtain ⟨hshape, hck⟩ := frameParse_eq_none_iff.mp hf
  split
  next h01 => exact frameParse_set_startCode hshape h01 hb
  next h01 =>
    split
    next hlens => exact frameParse_set_length hshape hlens hb
    next hlens => exact frameParse_set_checksum hshape hck h01 hlens hi hb

/-! ### The role and the kind (R212, R213) -/

/-- The classes of requests and of responses have no class in common. -/
theorem roleOf_iff (cc : Byte) :
    (roleOf cc = .request ↔ cc = 0x10 ∨ cc = 0x20 ∨ cc = 0x30)
      ∧ (roleOf cc = .response ↔ cc = 0x11 ∨ cc = 0x21 ∨ cc = 0x31)
      ∧ (roleOf cc = .unknown ↔ cc ∉ [(0x10 : Byte), 0x20, 0x30, 0x11, 0x21, 0x31]) := by
  unfold roleOf
  split
  next hreq => rcases hreq with rfl | rfl | rfl <;> decide
  next hreq =>
    split
    next hresp => rcases hresp with rfl | rfl | rfl <;> decide
    next hresp => simp_all

section
variable {rt : ResponseTypes} {role : MsgRole} {prt : Byte} {pd : List Byte}

theorem kindOf_not_response (h : role ≠ .response) : kindOf rt role prt pd = .ok (.none, 0) := by
  rw [kindOf, if_pos h]

theorem kindOf_ack (h : prt = rt.ack) : kindOf rt .response prt pd = .ok (.ack, 0) := by
  rw [kindOf, if_neg (not_not.mpr rfl), if_pos h]

theorem kindOf_ackOverflow (hack : prt ≠ rt.ack) (h : prt = rt.ackOverflow) :
    kindOf rt .response prt pd = .ok (.ackOverflow, 0) := by
  rw [kindOf, if_neg (not_not.mpr rfl), if_neg hack, if_pos h]

/-- The kinds with an argument: it is the first two bytes, and without them the length is wrong. -/
theorem kindOf_ackTimer (hprt : prt ∉ [rt.ack, rt.ackOverflow]) (h : prt = rt.ackTimer) :
    kindOf rt .response prt pd =
      if pd.length < 2 then .error .lengthMismatch else .ok (.ackTimer, BitVec.ofNat 16 (be (pd.take 2))) := by
  simp only [List.mem_cons, List.not_mem_nil, or_false, not_or] at hprt
  obtain ⟨hack, hover⟩ := hprt
  rw [kindOf, if_neg (not_not.mpr rfl), if_neg hack, if_neg hover, if_pos h]

theorem kindOf_nackReason (hprt : prt ∉ [rt.ack, rt.ackOverflow, rt.ackTimer]) (h : prt = rt.nackReason) :
    kindOf rt .response prt pd =
      if pd.length < 2 then .error .lengthMismatch else .ok (.nackReason, BitVec.ofNat 16 (be (pd.take 2))) := by
  simp only [List.mem_cons, List.not_mem_nil, or_false, not_or] at hprt
  obtain ⟨hack, hover, htimer⟩ := hprt
  rw [kindOf, if_neg (not_not.mpr rfl), if_neg hack, if_neg hover, if_neg htimer, if_pos h]

theorem kindOf_unknown (hprt : prt ∉ [rt.ack, rt.ackOverflow, rt.ackTimer, rt.nackReason]) :
    kindOf rt .response prt pd = .ok (.unknown, 0) := by
  simp only [List.mem_cons, List.not_mem_nil, or_false, not_or] at hprt
  obtain ⟨hack, hover, htimer, hnack⟩ := hprt
  rw [kindOf, if_neg (not_not.mpr rfl), if_neg hack, if_neg hover, if_neg htimer, if_neg hnack]

end

/-- Settles O20: the branches of R212 and R213 in their order. -/
theorem roleAndKindTables : Obligations.RoleAndKindTables := by
  refine ⟨roleOf_iff, fun rt role prt pd => ⟨kindOf_not_response, kindOf_ack, kindOf_ackOverflow,
    fun hprt h => ⟨fun hshort => ?_, fun hlong => ?_⟩, fun hprt h => ⟨fun hshort => ?_, fun hlong => ?_⟩, kindOf_unknown⟩⟩
  · rw [kindOf_ackTimer hprt h, if_pos hshort]
  · rw [kindOf_ackTimer hprt h, if_neg hlong.not_gt, ofNat_be_take_two hlong]
  · rw [kindOf_nackReason hprt h, if_pos hshort]
  · rw [kindOf_nackReason hprt h, if_neg hlong.not_gt, ofNat_be_take_two hlong]

/-! ### RDMDEC (R210, R211, R216) -/

section
variable {s : State}

theorem exec_rdmdec (ha : AcceptsOrdinary s) : exec .rdmdec s = .next (rdmDecode (dropOffer s)) := exec_ordinary rfl ha

theorem decodeFrame_unparsed {rt : ResponseTypes} {f : List Byte} {e : Failure} (h : frameParse f = some e) :
    decodeFrame rt f = .error e := by
  simp only [decodeFrame, h]

theorem decodeFrame_parsed {rt : ResponseTypes} {f : List Byte} (h : frameParse f = none) : decodeFrame rt f =
    (kindOf rt (roleOf (messageOf f).cc) (messageOf f).prt (frameData f)).map fun p =>
      (frameFields f, { role := roleOf (messageOf f).cc, kind := p.1, arg := p.2 }) := by
  simp only [decodeFrame, h]
  cases kindOf rt (roleOf (messageOf f).cc) (messageOf f).prt (frameData f) <;> rfl

/-- More bytes than `OBUF` has are a wrong length (R24). -/
theorem rdmDecode_overlong (h : s.cfg.bufCap < s.port.len.toNat) : rdmDecode s = raise .lengthMismatch 0 s := by
  rw [rdmDecode, if_pos h]

theorem rdmDecode_error {e : Failure} (hcap : s.port.len.toNat ≤ s.cfg.bufCap)
    (h : decodeFrame s.cfg.rts (obufBytes s s.port.len.toNat) = .error e) : rdmDecode s = raise e 0 s := by
  simp only [rdmDecode, if_neg hcap.not_gt, h]

theorem rdmDecode_ok {fields : RdmFields} {d : Decoded} (hcap : s.port.len.toNat ≤ s.cfg.bufCap)
    (h : decodeFrame s.cfg.rts (obufBytes s s.port.len.toNat) = .ok (fields, d)) :
    rdmDecode s = writeDecoded fields d (frameData (obufBytes s s.port.len.toNat)) s := by
  simp only [rdmDecode, if_neg hcap.not_gt, h]

/-- What a successful decode writes; a NACK differs in `STATUS` and `ERR_INFO` only (R210, R216). -/
theorem writeDecoded_eq (fields : RdmFields) (d : Decoded) (pd : List Byte) (s : State) : writeDecoded fields d pd s =
    { s with
      f := fields
      dec := d
      res := { s.res with
        status := if d.kind = .nackReason then .failed .nackReason else .ok
        errInfo := if d.kind = .nackReason then d.arg else 0
        rlen := rlenOf pd.length
        rbuf := s.res.rbuf.writeBytes 0 (pd.take s.cfg.bufCap) } } := by
  by_cases h : d.kind = .nackReason <;> simp [writeDecoded, h, raise, complete, deliver]

/-- The number of bytes of parameter data, as `RLEN` holds it, is the length byte. -/
theorem WellShaped.rlenOf_frameData {f : List Byte} (h : WellShaped f) :
    rlenOf (frameData f).length = (byteAt f 23).zeroExtend 16 := by
  have hlt := (byteAt f 23).isLt
  rw [h.frameData_length, rlenOf_of_lt (by omega), BitVec.ofNat_toNat]

end

/-- Settles O16: by the length, the parse, then the kind. -/
theorem rdmdecOutcomes : Obligations.RdmdecOutcomes := by
  intro s hb ha f failing
  obtain ⟨-, ⟨hrbuf, -⟩, -⟩ := hb
  rw [exec_rdmdec ha]
  refine ⟨fun hlong => ?_, fun hcap => ⟨fun e hparse => ?_, fun hparse => ⟨fun e hkind => ?_, fun kind arg hkind => ?_⟩⟩⟩
  · rw [rdmDecode_overlong (s := dropOffer s) hlong]; rfl
  · rw [rdmDecode_error (s := dropOffer s) hcap (decodeFrame_unparsed hparse)]; rfl
  · have hdecode : decodeFrame s.cfg.rts f = .error e := by rw [decodeFrame_parsed hparse, hkind]; rfl
    rw [rdmDecode_error (s := dropOffer s) hcap hdecode]; rfl
  · have hdecode : decodeFrame s.cfg.rts f =
        .ok (frameFields f, { role := roleOf (messageOf f).cc, kind := kind, arg := arg }) := by
      rw [decodeFrame_parsed hparse, hkind]; rfl
    obtain ⟨hshape, -⟩ := frameParse_eq_none_iff.mp hparse
    refine ⟨_, Memory.writeBytes_stores hrbuf s.cfg.bufCap (frameData f), ?_⟩
    rw [rdmDecode_ok (s := dropOffer s) hcap hdecode, writeDecoded_eq, ← hshape.rlenOf_frameData]; rfl

end Sys2Proof.Machine
end

section
/-! SUPPORT. The discovery engine as the HOST starts and cancels it (R232, R233, R300, R323). -/

namespace Sys2Proof.Machine

section
variable {s : State}

theorem exec_discstart_of_normal (hn : InNormal s) : exec .discstart s = .next (startDiscovery (dropOffer s)) :=
  accepting_accept (by rw [portColumn_normal hn]; rfl)

/-- DISCCANCEL is accepted wherever the HOST may have an operation run (R300). -/
theorem acceptance_disccancel (h : InNormal s ∨ InCall s ∨ InDiscovery s) :
    acceptance .disccancel (portColumn s) = .accept := by
  rcases h with hn | hc | hd
  · rw [portColumn_normal hn]; rfl
  · rw [portColumn_call hc]; rfl
  · rw [portColumn_discovery hd]; rfl

theorem exec_disccancel (h : InNormal s ∨ InCall s ∨ InDiscovery s) :
    exec .disccancel s = .next (complete (requestCancel (dropOffer s))) :=
  accepting_accept (run := fun t => complete (requestCancel t)) (acceptance_disccancel h)

/-- A running pass is asked to unwind (R233). -/
theorem requestCancel_running (hd : s.de.ds ≠ .idle) : requestCancel s = { s with de := { s.de with cancelReq := true } } :=
  if_pos hd

end

/-- Settles O36: DISCSTART is accepted in mode NORMAL only. -/
theorem discstartOpensWholeSpace : Obligations.DiscstartOpensWholeSpace := by
  refine fun s => ⟨fun hn => ?_, fun hn => ?_⟩
  · rw [exec_discstart_of_normal hn]
    rfl
  · exact accepting_of_not_accept (mt (inNormal_of_accept (.inr (.inl rfl))) hn)

/-- Settles O37: both operations ask for the cancel, and DISCCANCEL completes. -/
theorem disccancelRequests : Obligations.DisccancelRequests := by
  refine fun s => ⟨fun h => ?_, fun hd => ?_⟩
  · rw [exec_disccancel h, requestCancel_eq]
    rfl
  · have ⟨_, _, hrunning⟩ := hd
    rw [exec_detach_of_discovery hd, requestCancel_running hrunning]

end Sys2Proof.Machine
end

section
/-! SUPPORT. The requests of the discovery engine (R231, R236 to R240, R248, R251, R253, R260). -/

namespace Sys2Proof.Machine

/-- Settles O6: the three sending states of the discovery engine's turn. -/
theorem stepRunsDiscoveryRequest : Obligations.StepRunsDiscoveryRequest := by
  intro s rest hw hi hs
  rw [step_seq_idle hw hi hs]
  refine ⟨fun hd => ?_, fun hd => ?_, fun hd => ?_⟩ <;> simp only [discTurn, withScript_de, hd] <;> rfl

section
variable {s : State}

theorem exec_discUniqueBranch_sending (hd : s.de.ds = .branchTx) : exec .discUniqueBranch s = .next (branchTx s) := by
  rw [exec_eq_request s rfl, accepted, if_pos hd]

theorem exec_discMute_sending (hd : s.de.ds = .muteTx) : exec .discMute s = .next (muteTx s) := by
  rw [exec_eq_request s rfl, accepted, if_pos hd]

end

/-- Settles O38: a requested cancel comes first, else the request goes out through `DBUF`. -/
theorem branchRequestSent : Obligations.BranchRequestSent := by
  intro s hb hd win
  obtain ⟨-, -, hdbuf, -⟩ := hb
  rw [exec_discUniqueBranch_sending hd, branchTx_eq]
  refine ⟨fun hc => ?_, fun hc => ⟨_, Memory.writeBytes_stores hdbuf s.cfg.dbufCap win, ?_⟩⟩
  · rw [if_pos hc]; rfl
  · rw [if_neg (by simp [hc])]

/-- Settles O39: as the branch request, and the isolated UID is recorded with it. -/
theorem muteRequestSentAndRecorded : Obligations.MuteRequestSentAndRecorded := by
  intro s hb hd win
  obtain ⟨-, -, hdbuf, -⟩ := hb
  rw [exec_discMute_sending hd, muteTx_eq]
  refine ⟨fun hc => ?_, fun hc => ⟨_, Memory.writeBytes_stores hdbuf s.cfg.dbufCap win, ?_⟩⟩
  · rw [if_pos hc]; rfl
  · rw [if_neg (by simp [hc])]

end Sys2Proof.Machine
end

section
/-! SUPPORT. The waits of the discovery engine (R234, R241, R242, R249, R253): a cancel, an event, and an event elsewhere. -/

namespace Sys2Proof.Machine

section
variable {s : State} {e : RespEvent}

/-- A scripted event is delivered, whatever the sequencers do (R241). -/
theorem step_event {rest : List Act} (hw : s.cfg.wf = true) (hs : NextAct (.event e) rest s) :
    step s = deliverEvent e (withScript rest s) := step_act hw hs

theorem stepWait_cancel (hc : s.de.cancelReq = true) : stepWait s = .next (cancelPass s) := if_pos hc

theorem discTurn_of_waiting (hd : s.de.ds = .branchWait ∨ s.de.ds = .muteWait) : discTurn s = stepWait s := by
  rcases hd with hd | hd <;> simp only [discTurn, hd]

/-- A requested cancel comes before the event, which is lost (R234, log 18). -/
theorem deliverEvent_cancel (hd : s.de.ds = .branchWait ∨ s.de.ds = .muteWait) (hc : s.de.cancelReq = true) :
    deliverEvent e s = .next (cancelPass s) := by
  rcases hd with hd | hd <;> simp only [deliverEvent, hd, hc, if_true]

theorem deliverEvent_branchWait (hd : s.de.ds = .branchWait) (hc : s.de.cancelReq = false) :
    deliverEvent e s = branchEvent e s := by
  simp [deliverEvent, hd, hc]

theorem deliverEvent_muteWait (hd : s.de.ds = .muteWait) (hc : s.de.cancelReq = false) :
    deliverEvent e s = .next (muteEvent e s) := by
  simp [deliverEvent, hd, hc]

/-- An event outside the waits is dropped (R241). -/
theorem deliverEvent_elsewhere (hb : s.de.ds ≠ .branchWait) (hm : s.de.ds ≠ .muteWait) : deliverEvent e s = .next s := by
  cases hd : s.de.ds with
  | branchWait => exact absurd hd hb
  | muteWait => exact absurd hd hm
  | _ => simp only [deliverEvent, hd]

/-- The answer to a mute is read if there is one; else the pass goes on (R249). -/
theorem muteEvent_eq (e : RespEvent) (s : State) : muteEvent e s =
    { s with de := { s.de with lastEv := some e, ds := if e = .avail then .muteRx else .pop } } := by
  cases e <;> rfl

end

/-- Settles O45: in both waits, and for both acts, the cancel comes first. -/
theorem cancelEndsWaits : Obligations.CancelEndsWaits := by
  intro s rest a hw hi hc hd ha hs
  rcases ha with rfl | ⟨e, rfl⟩
  · rw [step_seq_idle hw hi hs, discTurn_of_waiting (s := withScript rest s) hd, stepWait_cancel (s := withScript rest s) hc]
    rfl
  · rw [step_event hw hs, deliverEvent_cancel (s := withScript rest s) hd hc]
    rfl

/-- Settles O42: the three events of `DS_BRANCH_WAIT`, and any event outside the waits. -/
theorem branchEventOutcomes : Obligations.BranchEventOutcomes := by
  refine fun s rest hw => ⟨fun hd hc => ?_, fun hb hm e hs => ?_⟩
  · have hstep : ∀ e, NextAct (.event e) rest s → step s = branchEvent e (withScript rest s) := fun e hs => by
      rw [step_event hw hs, deliverEvent_branchWait (s := withScript rest s) hd hc]
    refine ⟨fun hs => ?_, fun hs => ?_, fun hs => ?_⟩ <;> rw [hstep _ hs]
    · rfl
    · rfl
    · exact collision_answer (noteEvent .collision (withScript rest s))
  · rw [step_event hw hs, deliverEvent_elsewhere (s := withScript rest s) hb hm]
    rfl

end Sys2Proof.Machine
end

section
/-! SUPPORT. The reads of the response window by the discovery engine (R243 to R246, R250, R259). -/

namespace Sys2Proof.Machine

/-! ### One bulk read (R65, R67) -/

section
variable {cmd : Byte} {n : Nat} {s : State}

theorem bulkRead_wrongReply (h : (busReply s (cmd :: padding n)).length ≠ n + 1) :
    bulkRead cmd n s = (none, busXfer (cmd :: padding n) s) := by
  rcases readData_cases cmd n s with ⟨-, hd⟩ | ⟨hlen, -⟩
  · rw [bulkRead, hd]; rfl
  · exact absurd hlen h

theorem bulkRead_window (h : (busReply s (cmd :: padding n)).length = n + 1) :
    bulkRead cmd n s = (some ((busReply s (cmd :: padding n)).drop 1), busXfer (cmd :: padding n) s) := by
  rcases readData_cases cmd n s with ⟨hlen, -⟩ | ⟨-, hd, -⟩
  · exact absurd h hlen
  · rw [bulkRead, hd]; rfl

end

/-! ### The answer to a mute (R250) -/

section
variable {s : State}

theorem stepMuteRx_wrongReply (h : (busReply s (0x83 :: padding s.cfg.lenRdrdm)).length ≠ s.cfg.lenRdrdm + 1) :
    stepMuteRx s = setDs .pop (busXfer (0x83 :: padding s.cfg.lenRdrdm) s) := by
  rw [stepMuteRx, bulkRead_wrongReply h]

theorem stepMuteRx_window (h : (busReply s (0x83 :: padding s.cfg.lenRdrdm)).length = s.cfg.lenRdrdm + 1) :
    stepMuteRx s = setDs .pop
      (fillDbuf ((busReply s (0x83 :: padding s.cfg.lenRdrdm)).drop 1) (busXfer (0x83 :: padding s.cfg.lenRdrdm) s)) := by
  rw [stepMuteRx, bulkRead_window h]

end

/-- Settles O44: the event decides whether the answer is read, and the length of the reply whether `DBUF` takes it. -/
theorem muteAnswerDrained : Obligations.MuteAnswerDrained := by
  intro s rest hw hb hi
  obtain ⟨-, -, hdbuf, -⟩ := hb
  refine ⟨fun hd hc e hs => ?_, fun hd hs => ?_⟩
  · rw [step_event hw hs, deliverEvent_muteWait (s := withScript rest s) hd hc, muteEvent_eq]
    rfl
  · have hstep : step s = .next (stepMuteRx (withScript rest s)) := by
      rw [step_seq_idle hw hi hs]
      simp only [discTurn, withScript_de, hd]
    rw [hstep]
    by_cases hlen : (busReply s (0x83 :: padding s.cfg.lenRdrdm)).length = s.cfg.lenRdrdm + 1
    · rw [stepMuteRx_window (s := withScript rest s) hlen]
      exact ⟨_, rfl, fun hne => absurd hlen hne, fun _ => Memory.writeBytes_stores hdbuf s.cfg.dbufCap _⟩
    · rw [stepMuteRx_wrongReply (s := withScript rest s) hlen]
      exact ⟨_, rfl, fun _ => rfl, fun h => absurd h hlen⟩

/-! ### The UID that a window isolates (R244, R245) -/

theorem reservedUid_iff {u : Uid} : reservedUid u = true ↔ u = 0 ∨ u = 0xFFFFFFFFFFFF := by
  simp [reservedUid, bcast]

/-- A frame that parses, at the start of a window, isolates its source unless that is reserved, whatever follows it. -/
theorem isolatedUid_append {f tail : List Byte} (hp : frameParse f = none) (hsrc : reservedUid (messageOf f).src = false) :
    isolatedUid (f ++ tail) = some (messageOf f).src := by
  simp [isolatedUid, sliceFrame_append hp, hp, hsrc]

/-- A window isolates none if each frame that parses at its start, of whatever length, has a reserved source. -/
theorem isolatedUid_eq_none {w : List Byte}
    (h : ∀ f tail, w = f ++ tail → frameParse f = none → reservedUid (messageOf f).src = true) : isolatedUid w = none := by
  obtain ⟨tail, htail⟩ := sliceFrame_prefix w
  refine if_neg fun ⟨hp, hsrc⟩ => ?_
  rw [h _ tail htail hp] at hsrc
  cases hsrc

/-! ### The answer to a branch request (R243, R245, R259) -/

section
variable {s : State}

theorem stepBranchRx_wrongReply (h : (busReply s (0x83 :: padding s.cfg.lenRdrdm)).length ≠ s.cfg.lenRdrdm + 1) :
    stepBranchRx s = collision (busXfer (0x83 :: padding s.cfg.lenRdrdm) s) := by
  rw [stepBranchRx, bulkRead_wrongReply h]

theorem stepBranchRx_window (h : (busReply s (0x83 :: padding s.cfg.lenRdrdm)).length = s.cfg.lenRdrdm + 1) :
    let w := (busReply s (0x83 :: padding s.cfg.lenRdrdm)).drop 1
    let t := fillDbuf w (busXfer (0x83 :: padding s.cfg.lenRdrdm) s)
    (∀ u, isolatedUid w = some u → stepBranchRx s = .next (setDs .muteTx { t with de := { t.de with isoUid := u } }))
      ∧ (isolatedUid w = none → stepBranchRx s = collision t) := by
  intro w t
  refine ⟨fun u hu => ?_, fun hu => ?_⟩ <;> simp only [stepBranchRx, bulkRead_window h, w, hu] <;> rfl

end

/-- Settles O43: the length of the reply, then whether the window isolates a UID. -/
theorem branchResponseOutcomes : Obligations.BranchResponseOutcomes := by
  intro s rest hw hb hi hd hs tx window source afterRead
  obtain ⟨-, -, hdbuf, -⟩ := hb
  have hstep : step s = stepBranchRx (withScript rest s) := by
    rw [step_seq_idle hw hi hs]
    simp only [discTurn, withScript_de, hd]
  rw [hstep]
  refine ⟨fun hlen => ?_, fun hlen => ⟨_, Memory.writeBytes_stores hdbuf s.cfg.dbufCap window, ?_⟩⟩
  · rw [stepBranchRx_wrongReply (s := withScript rest s) hlen]
    exact collision_answer afterRead
  obtain ⟨hisolates, hcollides⟩ := stepBranchRx_window (s := withScript rest s) hlen
  refine ⟨fun f tail hwin hp h0 hbcast => ?_, fun hreserved => ?_⟩
  · have hsrc : reservedUid (source f) = false := Bool.eq_false_iff.mpr (mt reservedUid_iff.mp (not_or.mpr ⟨h0, hbcast⟩))
    have hiso : isolatedUid window = some (source f) := hwin ▸ isolatedUid_append hp hsrc
    rw [hisolates _ hiso]
    rfl
  · have hnone : isolatedUid window = none := isolatedUid_eq_none fun f tail hwin hp =>
      reservedUid_iff.mpr (hreserved f tail hwin hp)
    rw [hcollides hnone]
    exact collision_answer _

end Sys2Proof.Machine
end

section
/-! SUPPORT. The midpoint of a range (R247, R254). -/

namespace Sys2Proof.Machine

theorem inRange_iff {u lo hi : Uid} : inRange u lo hi = true ↔ lo.toNat ≤ u.toNat ∧ u.toNat ≤ hi.toNat := by
  simp [inRange, BitVec.le_def]

/-- Settles O46: everything follows from the two values as numbers. -/
theorem midpointSplitsRange : Obligations.MidpointSplitsRange := by
  intro lo hi hlt
  rw [BitVec.lt_def] at hlt
  have hmid := mid_toNat hlt.le
  have hsucc := mid_succ_toNat hlt
  simp only [BitVec.le_def, BitVec.lt_def, inRange_iff]
  refine ⟨hmid, hsucc, by omega, by omega, by omega, by omega, fun u => ⟨by omega, by omega⟩⟩

end Sys2Proof.Machine
end

section
/-! SUPPORT. The depth of the search (R51, R262; log 15): how many ranges can be open, and where a step could overflow the stack. -/

namespace Sys2Proof.Machine

/-! ### The number of open ranges -/

/-- Below the top the sizes rise, and they are at most 47: with the top there are at most 49. -/
theorem SizesDisciplined.length_le {ks : List Nat} (h : SizesDisciplined ks) : ks.length ≤ 49 := by
  obtain ⟨hrise, -, -, hle⟩ := h
  rcases Nat.lt_or_ge ks.length 2 with hlt | hlen
  · omega
  · have hsub : ks.tail ⊆ List.range 48 := fun k hk => by
      have := hle hlen k (List.mem_of_mem_tail hk)
      exact List.mem_range.mpr (by omega)
    have := (hrise.nodup.subperm hsub).length_le
    simp only [List.length_tail, List.length_range] at this
    omega

theorem RangesSound.length_le {rs : List UidRange} (h : RangesSound rs) : rs.length ≤ 49 := by
  obtain ⟨-, ks, hsizes, hks⟩ := h
  rw [hsizes.length_eq]
  exact hks.length_le

theorem liveStack_length {d : Disc} (h : d.sp ≤ d.stk.length) : (liveStack d).length = d.sp := by
  simp [liveStack, h]

theorem sp_le_openRanges_length {d : Disc} (h : d.sp ≤ d.stk.length) : d.sp ≤ (openRanges d).length := by
  unfold openRanges
  split <;> simp [liveStack_length h]

/-! ### Where a step could overflow the stack -/

/-- The range being probed is no leaf, and its halves have no room (R246). -/
def NoRoomToSplit (s : State) : Prop :=
  probing s.de.ds = true ∧ s.de.curLo ≠ s.de.curHi ∧ s.cfg.stackCap < s.de.sp + 2

/-- The halves of a range of a sound search would be sound too, so that they have room. -/
theorem SearchSound.not_noRoomToSplit {s : State} (h : SearchSound s) (hw : s.cfg.wf = true) : ¬ NoRoomToSplit s := by
  rintro ⟨hp, hne, hfull⟩
  obtain ⟨hlen, hle, hranges⟩ := (searchSound_iff s).mp h
  obtain ⟨-, -, hcap⟩ := cfg_wf_discovery hw
  rw [openRanges_of_probing hp] at hranges
  have hhalves := (hranges.split hne).length_le
  simp only [List.length_cons, liveStack_length (hlen ▸ hle)] at hhalves
  omega

theorem accepting_answers (k : OpClass) (run : State → State) (s : State) : ∃ t, accepting k run s = .next t := by
  cases h : acceptance k (portColumn s) with
  | accept => exact ⟨_, accepting_accept h⟩
  | held => exact ⟨_, accepting_held h⟩
  | refused => exact ⟨_, accepting_refused h⟩

/-- Every instruction answers a next state, in every state. -/
theorem exec_answers (i : Instr) (s : State) : ∃ t, exec i s = .next t := by
  cases hk : opClass i with
  | none => exact ⟨_, exec_eq_request s hk⟩
  | some k =>
    rw [exec_eq_accepting s hk]
    split
    · exact ⟨_, rfl⟩
    · exact accepting_answers k _ s

theorem exec_ne_fault (i : Instr) (s : State) (e : Fault) : exec i s ≠ .fault e := by
  obtain ⟨t, ht⟩ := exec_answers i s
  simp [ht]

theorem portTurn_ne_fault (s : State) (e : Fault) : portTurn s ≠ .fault e := by
  unfold portTurn
  split
  · split
    · exact exec_ne_fault _ s e
    · simp
  · simp

/-- The HOST's writes can leave `OBUF`, and nothing else (R24, log 16). -/
theorem hostWrite_ne_stackOverflow (w : HostWrite) (s : State) : hostWrite w s ≠ .fault .stackOverflow := by
  cases w with
  | obuf i bytes =>
    simp only [hostWrite]
    split <;> simp
  | _ => simp [hostWrite]

section
variable {s : State}

/-- A collision overflows the stack where a split has no room, also after a step that leaves the search as it is. -/
theorem noRoomToSplit_of_collision {t : State} (h : collision t = .fault .stackOverflow) (hp : probing s.de.ds = true)
    (hq : DiscQuiet s t) : NoRoomToSplit s := by
  obtain ⟨-, hne, hfull⟩ := collision_fault h
  obtain ⟨hcfg, hde⟩ := hq
  rw [hde] at hne hfull
  exact ⟨hp, hne, hcfg ▸ hfull⟩

theorem deliverEvent_stackOverflow {e : RespEvent} (h : deliverEvent e s = .fault .stackOverflow) : NoRoomToSplit s := by
  unfold deliverEvent at h
  split at h
  case h_1 hd =>
    split at h
    · cases h
    · cases e with
      | collision => exact noRoomToSplit_of_collision h (by simp [hd, probing]) ⟨rfl, rfl⟩
      | avail | timeout => cases h
  case h_2 => split at h <;> cases h
  all_goals cases h

theorem stepWait_stackOverflow (h : stepWait s = .fault .stackOverflow) : NoRoomToSplit s := by
  unfold stepWait at h
  split at h
  · cases h
  · split at h
    · have hfull := deliverEvent_stackOverflow h
      exact hfull
    · cases h

theorem stepBranchRx_stackOverflow (hd : s.de.ds = .branchRx) (h : stepBranchRx s = .fault .stackOverflow) :
    NoRoomToSplit s := by
  have hp : probing s.de.ds = true := by simp [hd, probing]
  by_cases hlen : (busReply s (0x83 :: padding s.cfg.lenRdrdm)).length = s.cfg.lenRdrdm + 1
  · obtain ⟨hisolates, hcollides⟩ := stepBranchRx_window hlen
    cases hu : isolatedUid ((busReply s (0x83 :: padding s.cfg.lenRdrdm)).drop 1) with
    | some u => rw [hisolates u hu] at h; cases h
    | none =>
      rw [hcollides hu] at h
      exact noRoomToSplit_of_collision h hp ⟨rfl, rfl⟩
  · rw [stepBranchRx_wrongReply hlen] at h
    exact noRoomToSplit_of_collision h hp (.of_eq rfl rfl)

theorem discTurn_stackOverflow (h : discTurn s = .fault .stackOverflow) : NoRoomToSplit s := by
  cases hd : s.de.ds <;> simp only [discTurn, hd] at h
  case branchTx | muteTx | unmuteTx => exact absurd h (exec_ne_fault _ s _)
  case branchWait | muteWait => exact stepWait_stackOverflow h
  case branchRx => exact stepBranchRx_stackOverflow hd h
  case idle | pop | muteRx => cases h

theorem seqTurn_stackOverflow (h : seqTurn s = .fault .stackOverflow) : NoRoomToSplit s := by
  cases hi : s.irqd.iq <;> simp only [seqTurn, hi] at h
  case idle => exact discTurn_stackOverflow h
  all_goals cases h

theorem applyAct_stackOverflow {a : Act} (h : applyAct a s = .fault .stackOverflow) : NoRoomToSplit s := by
  cases a with
  | port => exact absurd h (portTurn_ne_fault s _)
  | seq => exact seqTurn_stackOverflow h
  | write w => exact absurd h (hostWrite_ne_stackOverflow w s)
  | event e => exact deliverEvent_stackOverflow h
  | offer | withdraw | irqAssert | reset | envReg | envRegOr | envWin => cases h

/-- A step overflows the stack only by a split that has no room. -/
theorem step_stackOverflow (h : step s = .fault .stackOverflow) : s.cfg.wf = true ∧ NoRoomToSplit s := by
  cases hw : s.cfg.wf with
  | false => simp [step, hw] at h
  | true =>
    refine ⟨rfl, ?_⟩
    rw [step_eq_move hw, move] at h
    split at h
    next a rest hs => exact applyAct_stackOverflow (s := withScript rest s) h
    next =>
      split at h
      · exact absurd h (portTurn_ne_fault s _)
      · exact seqTurn_stackOverflow h

end

/-- Settles O52: at most 49 ranges are open, and a sound search has room for every split. -/
theorem stackNeverOverflows : Obligations.StackNeverOverflows := by
  intro s hs
  obtain ⟨hlen, hle, hranges⟩ := (searchSound_iff s).mp hs
  refine ⟨(sp_le_openRanges_length (hlen ▸ hle)).trans hranges.length_le, fun hfault => ?_⟩
  obtain ⟨hw, hfull⟩ := step_stackOverflow hfault
  exact hs.not_noRoomToSplit hw hfull

end Sys2Proof.Machine
end

section
/-! SUPPORT. How an operation ends (R14, R281, R286): unchanged, completed, or failed in one of three ways with a code of its row; and the
interrupt event (R290). -/

namespace Sys2Proof.Machine

/-! ### The ways to fail -/

/-- The ways in which the body of an operation fails from `s`: before its transaction, after the only one it makes, or, with a NACK
decoded, after everything was written (R216, R281). -/
inductive FailsWith (s : State) : Failure → State → Prop where
  | atOnce (e : Failure) : FailsWith s e (raise e 0 s)
  | afterXfer (e : Failure) (tx : List Byte) : FailsWith s e (raise e 0 (busXfer tx s))
  | nack (fields : RdmFields) (d : Decoded) (pd : List Byte) (hd : d.kind = .nackReason) :
      FailsWith s .nackReason (writeDecoded fields d pd s)

section
variable {s t : State} {e : Failure}

theorem FailsWith.status (h : FailsWith s e t) : t.res.status = .failed e := by
  cases h with
  | atOnce | afterXfer => rfl
  | nack fields d pd hd => simp [writeDecoded_eq, hd]

/-- A failure changes results, RDM registers and the bus only. -/
theorem FailsWith.frame (h : FailsWith s e t) : t = { s with res := t.res, f := t.f, dec := t.dec, env := t.env } := by
  cases h with
  | atOnce | afterXfer => rfl
  | nack => rw [writeDecoded_eq]

theorem FailsWith.env (h : FailsWith s e t) : EnvAfterAtMostOne s t := by
  cases h with
  | atOnce => exact .of_eq rfl
  | afterXfer _ tx => exact .of_xfer tx rfl
  | nack => exact .of_eq (by rw [writeDecoded_eq])

/-- Only a NACK delivers anything besides the code (R216, R281). -/
theorem FailsWith.delivers_nothing (h : FailsWith s e t) (hne : e ≠ .nackReason) :
    t.f = s.f ∧ t.dec = s.dec ∧ t.res.errInfo = 0 ∧ t.res.rlen = s.res.rlen ∧ t.res.rbuf = s.res.rbuf := by
  cases h with
  | atOnce | afterXfer => exact ⟨rfl, rfl, rfl, rfl, rfl⟩
  | nack => exact absurd rfl hne

end

/-- The ways in which an operation with the failures `row` ends: `STATUS` as it was, `OK`, or a failure of the row. -/
inductive EndsWithin (row : List Failure) (s t : State) : Prop where
  | unchanged (h : t.res.status = s.res.status)
  | completed (h : t.res.status = .ok)
  | failed (e : Failure) (he : e ∈ row) (h : FailsWith s e t)

/-! ### The bodies -/

theorem readRegister_ends (a : Byte) (len : Nat) (s : State) :
    EndsWithin [.accessDenied, .lengthMismatch] s (readRegister a len s) := by
  rcases readRegister_cases a len s with ⟨-, e⟩ | ⟨_, -, -, ⟨-, e⟩ | ⟨-, -, e⟩ | ⟨-, -, e⟩⟩ <;> rw [e]
  · exact .failed _ (by simp) (.atOnce _)
  · exact .failed _ (by simp) (.atOnce _)
  · exact .failed _ (by simp) (.afterXfer _ _)
  · exact .completed rfl

theorem writeRegister_ends (a : Byte) (len : Nat) (s : State) :
    EndsWithin [.accessDenied, .lengthMismatch] s (writeRegister a len s) := by
  rcases writeRegister_cases a len s with ⟨-, e⟩ | ⟨_, -, -, ⟨-, e⟩ | ⟨-, e⟩⟩ <;> rw [e]
  · exact .failed _ (by simp) (.atOnce _)
  · exact .failed _ (by simp) (.atOnce _)
  · exact .completed rfl

/-- With the length of the table a write has no wrong length (R94, R120). -/
theorem writeRegister_tableLength_ends (a : Byte) (s : State) :
    EndsWithin [.accessDenied] s (writeRegister a (tableLength s.cfg a) s) := by
  rcases writeRegister_cases a (tableLength s.cfg a) s with ⟨-, e⟩ | ⟨row, hl, -, ⟨hne, -⟩ | ⟨-, e⟩⟩
  · rw [e]
    exact .failed _ (by simp) (.atOnce _)
  · exact absurd (tableLength_of_lookup hl) hne
  · rw [e]
    exact .completed rfl

theorem readWindow_ends (cmd : Byte) (n : Nat) (s : State) : EndsWithin [.frameLengthError] s (readWindow cmd n s) := by
  rcases readWindow_cases cmd n s with ⟨-, e⟩ | ⟨-, e⟩ <;> rw [e]
  · exact .failed _ (by simp) (.afterXfer _ _)
  · exact .completed rfl

theorem writeWindow_ends (cmd : Byte) (n : Nat) (s : State) : EndsWithin [.frameLengthError] s (writeWindow cmd n s) := by
  rcases writeWindow_cases cmd n s with ⟨-, e⟩ | ⟨-, e⟩ <;> rw [e]
  · exact .failed _ (by simp) (.atOnce _)
  · exact .completed rfl

theorem checkedWrite_ends (cmd : Byte) (n : Nat) (s : State) : EndsWithin [.frameLengthError] s (checkedWrite cmd n s) := by
  rcases checkedWrite_cases cmd n s with ⟨-, e⟩ | ⟨-, -, e⟩ <;> rw [e]
  · exact .failed _ (by simp) (.atOnce _)
  · exact .completed rfl

theorem rdmEncode_ends (s : State) : EndsWithin [.lengthMismatch] s (rdmEncode s) := by
  rcases rdmEncode_cases s with ⟨-, e⟩ | ⟨-, -, e⟩ <;> rw [e]
  · exact .failed _ (by simp) (.atOnce _)
  · exact .completed rfl

/-- The failures of R205, one for each check. -/
theorem frameParse_failure {f : List Byte} {e : Failure} (h : frameParse f = some e) :
    e = .badStartCode ∨ e = .lengthMismatch ∨ e = .checksumError := by
  unfold frameParse at h
  split at h
  · cases h
    exact .inl rfl
  · split at h
    · cases h
      exact .inr (.inl rfl)
    · split at h <;> cases h
      exact .inr (.inr rfl)

/-- A kind fails only without room for its argument (R213). -/
theorem kindOf_failure {rt : ResponseTypes} {role : MsgRole} {prt : Byte} {pd : List Byte} {e : Failure}
    (h : kindOf rt role prt pd = .error e) : e = .lengthMismatch := by
  unfold kindOf at h
  repeat' split at h
  all_goals cases h
  all_goals rfl

theorem decodeFrame_failure {rt : ResponseTypes} {f : List Byte} {e : Failure} (h : decodeFrame rt f = .error e) :
    e = .badStartCode ∨ e = .lengthMismatch ∨ e = .checksumError := by
  rcases decodeFrame_cases rt f with ⟨_, hp, hd⟩ | ⟨-, ⟨_, hk, hd⟩ | ⟨_, _, -, hd⟩⟩ <;> rw [hd] at h <;> cases h
  · exact frameParse_failure hp
  · exact .inr (.inl (kindOf_failure hk))

theorem rdmDecode_ends (s : State) :
    EndsWithin [.lengthMismatch, .checksumError, .badStartCode, .nackReason] s (rdmDecode s) := by
  rcases rdmDecode_cases s with ⟨-, e⟩ | ⟨-, ⟨_, hd, e⟩ | ⟨fields, d, -, e⟩⟩ <;> rw [e]
  · exact .failed _ (by simp) (.atOnce _)
  · exact .failed _ (by rcases decodeFrame_failure hd with rfl | rfl | rfl <;> simp) (.atOnce _)
  · by_cases hk : d.kind = .nackReason
    · exact .failed _ (by simp) (.nack fields d _ hk)
    · exact .completed (by simp [writeDecoded_eq, hk])

theorem pollBody_ends (s : State) : EndsWithin [] s (pollBody s) := by
  unfold pollBody
  split
  · exact .unchanged rfl
  · exact .completed rfl

/-! ### The instructions -/

/-- The failures each instruction can end in (R286; the BUS rows: log 11). -/
def failureRow : Instr → List Failure
  | .rdreg | .wrreg | .busRdreg _ => [.accessDenied, .lengthMismatch]
  | .busWrreg _ => [.accessDenied]
  | .rddmx | .rdasc | .rdrdm | .busRddmx | .busRdasc | .busRdrdm => [.frameLengthError]
  | .wrdmx | .wrrdm | .fwblk1 | .fwblk2 | .busWrdmx | .busWrrdm | .busFwblk1 | .busFwblk2 => [.frameLengthError]
  | .rdmenc => [.lengthMismatch]
  | .rdmdec => [.lengthMismatch, .checksumError, .badStartCode, .nackReason]
  | .nop | .busNop | .attach | .detach | .poll | .hret | .discstart | .disccancel => []
  | .discUniqueBranch | .discMute | .discUnMute => []

/-- Every body ends within its row; the requests of the discovery engine complete no operation (R252). -/
theorem accepted_ends (i : Instr) (s : State) : EndsWithin (failureRow i) s (accepted i s) := by
  cases i with
  | rdreg | busRdreg => exact readRegister_ends _ _ s
  | wrreg => exact writeRegister_ends _ _ s
  | busWrreg => exact writeRegister_tableLength_ends _ s
  | rddmx | rdasc | rdrdm | busRddmx | busRdasc | busRdrdm => exact readWindow_ends _ _ s
  | wrdmx | wrrdm | fwblk1 | fwblk2 => exact checkedWrite_ends _ _ s
  | busWrdmx | busWrrdm | busFwblk1 | busFwblk2 => exact writeWindow_ends _ _ s
  | rdmenc => exact rdmEncode_ends s
  | rdmdec => exact rdmDecode_ends s
  | poll => exact pollBody_ends s
  | nop | busNop | hret | attach | detach | discstart | disccancel => exact .completed rfl
  | discUniqueBranch | discMute | discUnMute =>
    exact .unchanged (congrArg (·.res.status) (request_discoveryOnly rfl (exec_eq_request s rfl)))

/-- An instruction that fails was accepted, so its offer is gone (R15, R281). -/
theorem exec_ends {i : Instr} {s t : State} (h : exec i s = .next t) : EndsWithin (failureRow i) (dropOffer s) t := by
  rcases exec_next h with ⟨-, -, -, rfl⟩ | ⟨hk, rfl⟩ | rfl | rfl | ⟨-, -, rfl⟩
  · exact accepted_ends i (dropOffer s)
  · exact .unchanged (congrArg (·.res.status) (request_discoveryOnly hk h))
  · exact .unchanged rfl
  · exact .unchanged rfl
  · exact .unchanged (by rw [requestCancel_eq]; rfl)

/-- Settles O58: an instruction ends within its row. -/
theorem statusesByOperation : Obligations.StatusesByOperation := by
  intro i s t h
  rcases exec_ends h with hkept | hok | ⟨e, he, hfail⟩
  · exact .inl hkept
  · exact .inr (.inl hok)
  · rw [hfail.status]
    cases i with
    | rdreg | wrreg | busRdreg =>
      obtain rfl | rfl : e = .accessDenied ∨ e = .lengthMismatch := by simpa [failureRow] using he
      all_goals simp
    | busWrreg =>
      obtain rfl : e = .accessDenied := by simpa [failureRow] using he
      simp
    | rddmx | rdasc | rdrdm | busRddmx | busRdasc | busRdrdm | wrdmx | wrrdm | fwblk1 | fwblk2 | busWrdmx | busWrrdm
    | busFwblk1 | busFwblk2 =>
      obtain rfl : e = .frameLengthError := by simpa [failureRow] using he
      simp
    | rdmenc =>
      obtain rfl : e = .lengthMismatch := by simpa [failureRow] using he
      simp
    | rdmdec =>
      obtain rfl | rfl | rfl | rfl : e = .lengthMismatch ∨ e = .checksumError ∨ e = .badStartCode ∨ e = .nackReason := by
        simpa [failureRow] using he
      all_goals simp
    | _ => cases he

/-- Settles O60: an instruction always answers, and a failure it did not start with is one of the three ways to fail. -/
theorem failureKeepsSequencers : Obligations.FailureKeepsSequencers := by
  intro i s
  obtain ⟨t, ht⟩ := exec_answers i s
  refine ⟨t, ht, fun hok e hfailed => ?_⟩
  rcases exec_ends ht with hkept | hdone | ⟨e', -, hfail⟩
  · rw [hkept, dropOffer_res, hok] at hfailed
    cases hfailed
  · rw [hdone] at hfailed
    cases hfailed
  · obtain rfl : e' = e := Status.failed.inj (hfail.status.symm.trans hfailed)
    have hnothing := hfail.delivers_nothing
    have henv := hfail.env
    rw [hfail.frame]
    exact ⟨rfl, rfl, rfl, rfl, rfl, rfl, hnothing, henv⟩

/-! ### The interrupt event -/

/-- What the interrupt line does (R290). -/
theorem irqAssert_eq (s : State) :
    irqAssert s = { s with irqd := { s.irqd with irqPending := s.irqd.irqPending || s.attached } } := by
  unfold irqAssert
  split
  next ha => rw [ha, Bool.or_true]
  next ha =>
    have hkept : (s.irqd.irqPending || s.attached) = s.irqd.irqPending := by simp [ha]
    rw [hkept]

/-- Settles O29: the act of the script is the interrupt event alone. -/
theorem irqAssertEffect : Obligations.IrqAssertEffect := by
  intro s rest hw hs
  rw [step_act hw hs, applyAct, irqAssert_eq]
  rfl

end Sys2Proof.Machine
end

section
/-! SUPPORT. The handle as the HOST opens and closes it (R300, R322, R323): ATTACH and DETACH. -/

namespace Sys2Proof.Machine

section
variable {s : State}

/-- The converse of `attach_of_accept`: the row of ATTACH in R300. -/
theorem acceptance_attach (h : s.attached = false ∨ InNormal s) : acceptance .attach (portColumn s) = .accept := by
  rcases h with hnone | hn
  · rw [portColumn_detached hnone]; rfl
  · rw [portColumn_normal hn]; rfl

theorem exec_attach (h : s.attached = false ∨ InNormal s) : exec .attach s = .next (attachBody (dropOffer s)) :=
  accepting_accept (acceptance_attach h)

theorem exec_detach_of_normal (hn : InNormal s) : exec .detach s = .next (detachBody (dropOffer s)) := by
  have hcol := portColumn_normal hn
  rw [exec_eq_accepting s (k := .detach) rfl, if_neg (by simp [hcol]), accepting_accept (by rw [hcol]; rfl)]
  rfl

end

/-- Settles O30: ATTACH is accepted without a handle and in mode NORMAL only. -/
theorem attachReinitialises : Obligations.AttachReinitialises := by
  refine fun s => ⟨fun h => ?_, fun h => ?_⟩
  · rw [exec_attach h]
    rfl
  · exact accepting_of_not_accept (mt attach_of_accept h)

/-- Settles O31: DETACH runs in mode NORMAL, asks a pass to unwind, and is dropped in a call-out. -/
theorem detachOutcomes : Obligations.DetachOutcomes := by
  refine fun s => ⟨fun hn => ?_, fun hd => ?_, fun hc => ?_⟩
  · rw [exec_detach_of_normal hn]
    rfl
  · obtain ⟨-, hdetach⟩ := disccancelRequests s
    exact hdetach hd
  · exact exec_refused_of_call (k := .detach) hc rfl (by simp)

end Sys2Proof.Machine
end
